-- ==== Sys2Proof/Word.lean ====
section
/-! DEFINITION. The word of this hardware: the byte. "A byte is an unsigned integer 0 to 255" (00_scope.md R7); every register
and every access is one byte or narrower (R57, R58), and the only wider quantity is the operand port `enc_len` (R35). -/

namespace Sys2Proof

/-- A byte, 8 bits unsigned (R7). -/
abbrev Byte := BitVec 8

/-- A value of the port `enc_len`: `ENC_LENW = 16` bits, unsigned (R6, D16). -/
abbrev EncLen := BitVec 16

end Sys2Proof
end

