-- ==== Sys2Proof/Config.lean ====
section
/-! DEFINITION. The parameters of 00_scope.md R5, R6 and the free values: constants with no body, for what the spec leaves
open as "any value" (93_implementation_defined.md U2, U4, U6, U10). -/

namespace Sys2Proof.Config

/-- `START = 0x02` (R5). -/
abbrev START : Byte := 0x02#8

/-- `END = 0x03` (R5). -/
abbrev END : Byte := 0x03#8

/-- `MAX_PAYLOAD = 255`: LENGTH is one byte (R5). -/
abbrev MAX_PAYLOAD : Nat := 255

/-- `BUF_CAP = 255`, the cells 0 to 254 (R6, R50, D6). -/
abbrev BUF_CAP : Nat := 255

/-- The payload source's indices are 0 to 254 (R51, R56). -/
abbrev SRC_CAP : Nat := 255

/-- FREE VALUE. What buffer cell `i` holds before anything has written it: "its power-on value, which is unspecified" (R41, U4,
U10). A function of the cell, because a cell keeps its contents. -/
opaque powerOnCell : Nat → Byte

/-- FREE VALUE. The byte the payload source answers for an index the environment has presented no byte for (R56 gives
`PayloadSrc(i)` for `i < len(p)` only; log 9). -/
opaque unpresentedPayload : Nat → Byte

/-- FREE VALUE. `rd_data` outside its window is "unspecified" (R53, R117, U2): the k-th such read draws the k-th of these. -/
opaque unspecifiedRdData : Nat → Byte

end Sys2Proof.Config
end

