-- ==== Sys2Proof/Syntax.lean ====
section
/-! DEFINITION. The names the spec enumerates (decoder states, encoder phases, verdicts, input classes), the dispatch words of
30_encoding.md R74, and the 35 rows of opcode_table.json as one inductive, `Instr`. A row's operands are the bits of its word
that its mask leaves open (R76 to R78), the operand ports `enc_len` and `rd_addr`, and the lists of the two functions. -/

namespace Sys2Proof

/-- DecoderState: "an enumeration of exactly these seven values" (10_state.md R20). -/
inductive DecState where
  | awaitingStart
  | awaitingLength
  | awaitingPayload
  | awaitingChecksum
  | awaitingEnd
  | done
  | failed
  deriving DecidableEq, Repr

/-- `enc_phase`: "which field is emitted next" (10_state.md R34). -/
inductive EncPhase where
  | encIdle
  | encStart
  | encLength
  | encPayload
  | encChecksum
  | encEnd
  deriving DecidableEq, Repr

/-- The four values of the `verdict` output (10_state.md R31). -/
inductive Verdict where
  | pending
  | complete
  | checksumMismatch
  | malformed
  deriving DecidableEq, Repr

/-- The "6 input classes" (30_encoding.md R75). -/
inductive InputClass where
  | start
  | length
  | payload
  | checksum
  | endMarker
  | other
  deriving DecidableEq, Repr

/-- The three named errors (60_exceptions.md R154). -/
inductive ErrorName where
  | malformed
  | checksumMismatch
  | payloadTooLarge
  deriving DecidableEq, Repr

/-- The answer of the function ENCODE: a list of bytes, or the error PayloadTooLarge (42_encoder.md R130). -/
inductive EncodeResult where
  | bytes (l : List Byte)
  | payloadTooLarge
  deriving DecidableEq, Repr

/-- What selects an operation: one word of one format (30_encoding.md R74). Formats R and function have no selection bits
(R79, R86): their operations are named by constructors of their own, with their operands. -/
inductive DispatchWord where
  /-- Format D: `DW[12:0] = rst ++ in_valid ++ state[2:0] ++ in_byte[7:0]` (R76). -/
  | d (dw : BitVec 13)
  /-- Format E: `EW[6:0] = enc_rst ++ enc_start ++ too_large ++ out_ready ++ enc_phase[2:0]`, and the port `enc_len` (R77). -/
  | e (ew : BitVec 7) (encLen : EncLen)
  /-- Format K: `KW[9:0] = ck_clr ++ ck_en ++ ck_byte[7:0]` (R78). -/
  | k (kw : BitVec 10)
  /-- Format R: RESULT (R79). -/
  | result
  /-- Format R: RDPAYLOAD at `rd_addr` (R79). -/
  | rdPayload (rdAddr : Byte)
  /-- Format function: ENCODE (R86). -/
  | encode (payload : List Byte)
  /-- Format function: CKSUM8 (R86). -/
  | cksum8 (bytes : List Byte)
  deriving DecidableEq, Repr

/-- The rows of opcode_table.json. -/
inductive Instr where
  /-- RESET (R100), `1vsssbbbbbbbb`. -/
  | reset (inValid : Bool) (stateCode : BitVec 3) (inByte : Byte)
  /-- IDLE (R101), `00sssbbbbbbbb`. -/
  | idle (stateCode : BitVec 3) (inByte : Byte)
  /-- FEED.START_OK (R102), `0100000000010`. -/
  | feedStartOk
  /-- FEED.START_BAD (R103), `01000bbbbbbbb`. -/
  | feedStartBad (inByte : Byte)
  /-- FEED.LEN_ZERO (R105), `0100100000000`. -/
  | feedLenZero
  /-- FEED.LEN_NONZERO (R104), `01001bbbbbbbb`. -/
  | feedLenNonzero (inByte : Byte)
  /-- FEED.PAYLOAD_MORE (R106), `01010bbbbbbbb`. -/
  | feedPayloadMore (inByte : Byte)
  /-- FEED.PAYLOAD_LAST (R107), `01010bbbbbbbb`. -/
  | feedPayloadLast (inByte : Byte)
  /-- FEED.CKSUM_OK (R108), `01011bbbbbbbb`. -/
  | feedCksumOk (inByte : Byte)
  /-- FEED.CKSUM_BAD (R109), `01011bbbbbbbb`. -/
  | feedCksumBad (inByte : Byte)
  /-- FEED.END_OK (R110), `0110000000011`. -/
  | feedEndOk
  /-- FEED.END_BAD (R111), `01100bbbbbbbb`. -/
  | feedEndBad (inByte : Byte)
  /-- FEED.DONE (R112), `01101bbbbbbbb`. -/
  | feedDone (inByte : Byte)
  /-- FEED.FAILED (R113), `01110bbbbbbbb`. -/
  | feedFailed (inByte : Byte)
  /-- FEED.ILLSTATE (R114), `01111bbbbbbbb`. -/
  | feedIllstate (inByte : Byte)
  /-- RESULT (R116), format R. -/
  | result
  /-- RDPAYLOAD (R117), format R. -/
  | rdPayload (rdAddr : Byte)
  /-- ENC.RESET (R132), `1styppp`. -/
  | encReset (encStart tooLarge outReady : Bool) (phaseCode : BitVec 3)
  /-- ENC.START_OK (R134), `010y000`; `encLen` is `enc_len[7:0]`, the rest being 0. -/
  | encStartOk (outReady : Bool) (encLen : Byte)
  /-- ENC.START_TOOLARGE (R135), `011y000`. -/
  | encStartTooLarge (outReady : Bool) (encLen : EncLen)
  /-- ENC.IDLE (R133), `00ty000`. -/
  | encIdle (tooLarge outReady : Bool)
  /-- ENC.EMIT_START (R138), `0st1001`. -/
  | encEmitStart (encStart tooLarge : Bool)
  /-- ENC.EMIT_LENGTH_NZ (R139), `0st1010`. -/
  | encEmitLengthNz (encStart tooLarge : Bool)
  /-- ENC.EMIT_LENGTH_Z (R140), `0st1010`. -/
  | encEmitLengthZ (encStart tooLarge : Bool)
  /-- ENC.EMIT_PAYLOAD_MORE (R141), `0st1011`. -/
  | encEmitPayloadMore (encStart tooLarge : Bool)
  /-- ENC.EMIT_PAYLOAD_LAST (R142), `0st1011`. -/
  | encEmitPayloadLast (encStart tooLarge : Bool)
  /-- ENC.EMIT_CHECKSUM (R143), `0st1100`. -/
  | encEmitChecksum (encStart tooLarge : Bool)
  /-- ENC.EMIT_END (R144), `0st1101`. -/
  | encEmitEnd (encStart tooLarge : Bool)
  /-- ENC.ILLPHASE (R145), `0sty11p`. -/
  | encIllphase (encStart tooLarge outReady low : Bool)
  /-- ENC.STALL (R136), `0st0ppp`, the phase being 1 to 5. -/
  | encStall (encStart tooLarge : Bool) (phase : EncPhase)
  /-- CK.CLR (R92), `1ebbbbbbbb`. -/
  | ckClr (ckEn : Bool) (ckByte : Byte)
  /-- CK.ADD (R93), `01bbbbbbbb`. -/
  | ckAdd (ckByte : Byte)
  /-- CK.HOLD (R95), `00bbbbbbbb`. -/
  | ckHold (ckByte : Byte)
  /-- ENCODE (R130), format function. -/
  | encode (payload : List Byte)
  /-- CKSUM8 (R94), format function. -/
  | cksum8 (bytes : List Byte)
  deriving DecidableEq, Repr

end Sys2Proof
end

