-- ==== Sys2Proof/WellFormed.lean ====
section
/-! DEFINITION. Which terms of `Instr` stand for a word of the table: the conditions on operands that the table states by
priority (30_encoding.md R76, R77). Every other operand takes every value of its type. -/

namespace Sys2Proof

/-- The operand conditions of R76 ("byte is not 0x02, by priority", and so on) and R77 (`enc_len > 255`; "phase is 1 to 5, by
priority"). -/
def Instr.wf : Instr → Bool
  | .reset _ _ _ => true
  | .idle _ _ => true
  | .feedStartOk => true
  | .feedStartBad b => b != Config.START
  | .feedLenZero => true
  | .feedLenNonzero b => b != 0x00#8
  | .feedPayloadMore _ => true
  | .feedPayloadLast _ => true
  | .feedCksumOk _ => true
  | .feedCksumBad _ => true
  | .feedEndOk => true
  | .feedEndBad b => b != Config.END
  | .feedDone _ => true
  | .feedFailed _ => true
  | .feedIllstate _ => true
  | .result => true
  | .rdPayload _ => true
  | .encReset _ _ _ _ => true
  | .encStartOk _ _ => true
  | .encStartTooLarge _ n => decide (Config.MAX_PAYLOAD < n.toNat)
  | .encIdle _ _ => true
  | .encEmitStart _ _ => true
  | .encEmitLengthNz _ _ => true
  | .encEmitLengthZ _ _ => true
  | .encEmitPayloadMore _ _ => true
  | .encEmitPayloadLast _ _ => true
  | .encEmitChecksum _ _ => true
  | .encEmitEnd _ _ => true
  | .encIllphase _ _ _ _ => true
  | .encStall _ _ p => p != .encIdle
  | .ckClr _ _ => true
  | .ckAdd _ => true
  | .ckHold _ => true
  | .encode _ => true
  | .cksum8 _ => true

end Sys2Proof
end

