-- ==== Sys2Proof/Decode.lean ====
section
/-! DEFINITION. From a dispatch word to the row it selects and back (30_encoding.md R74, R76 to R79, R86). Selection also reads
registers that are not in the word, so the decoder takes the word and a `SelCtx`. The decoder goes by fields; the table of
masks and matches, tried in ascending priority as R86 says, stands beside it, and so does the encoder. -/

namespace Sys2Proof

/-! ## Codes -/

/-- The 3-bit code of `state` (10_state.md R21). -/
def DecState.code : DecState → BitVec 3
  | .awaitingStart => 0b000#3
  | .awaitingLength => 0b001#3
  | .awaitingPayload => 0b010#3
  | .awaitingChecksum => 0b011#3
  | .awaitingEnd => 0b100#3
  | .done => 0b101#3
  | .failed => 0b110#3

/-- The state of a code; `0b111` is "no state" (R21). -/
def DecState.ofCode (c : BitVec 3) : Option DecState :=
  match c.toNat with
  | 0 => some .awaitingStart
  | 1 => some .awaitingLength
  | 2 => some .awaitingPayload
  | 3 => some .awaitingChecksum
  | 4 => some .awaitingEnd
  | 5 => some .done
  | 6 => some .failed
  | _ => none

/-- The 3-bit code of `enc_phase` (10_state.md R34). -/
def EncPhase.code : EncPhase → BitVec 3
  | .encIdle => 0b000#3
  | .encStart => 0b001#3
  | .encLength => 0b010#3
  | .encPayload => 0b011#3
  | .encChecksum => 0b100#3
  | .encEnd => 0b101#3

/-- The phase of a code; `0b110` and `0b111` "are never written" (R34). -/
def EncPhase.ofCode (c : BitVec 3) : Option EncPhase :=
  match c.toNat with
  | 0 => some .encIdle
  | 1 => some .encStart
  | 2 => some .encLength
  | 3 => some .encPayload
  | 4 => some .encChecksum
  | 5 => some .encEnd
  | _ => none

/-- The 2-bit code of the `verdict` output (10_state.md R31). -/
def Verdict.code : Verdict → BitVec 2
  | .pending => 0b00#2
  | .complete => 0b01#2
  | .checksumMismatch => 0b10#2
  | .malformed => 0b11#2

/-! ## The registers the rows' extra conditions read -/

/-- The registers outside the word that R76 and R77 test. -/
structure SelCtx where
  writeCursor : Byte
  declaredLength : Byte
  checksumAcc : Byte
  encLenR : Byte
  encCursor : Byte
  deriving DecidableEq, Repr

/-- `write_cursor + 1 < declared_length`, "evaluated without wrap-around" (R73, R76 row 7). -/
def SelCtx.payloadMore (c : SelCtx) : Bool := decide (c.writeCursor.toNat + 1 < c.declaredLength.toNat)

/-- `write_cursor + 1 = declared_length`, "evaluated without wrap-around" (R73, R76 row 8). -/
def SelCtx.payloadLast (c : SelCtx) : Bool := decide (c.writeCursor.toNat + 1 = c.declaredLength.toNat)

/-- `enc_cursor + 1 < enc_len_r` (R77 row 8). -/
def SelCtx.encMore (c : SelCtx) : Bool := decide (c.encCursor.toNat + 1 < c.encLenR.toNat)

/-- `enc_cursor + 1 = enc_len_r` (R77 row 9). -/
def SelCtx.encLast (c : SelCtx) : Bool := decide (c.encCursor.toNat + 1 = c.encLenR.toNat)

/-- `too_large`, "1 exactly when `enc_len > 255`" (R77). -/
def tooLargeBit (encLen : EncLen) : Bool := decide (Config.MAX_PAYLOAD < encLen.toNat)

/-! ## Decoding -/

/-- Why no row applies to a word (log 6). -/
inductive DecodeError where
  /-- An AwaitingPayload word while `write_cursor + 1 > declared_length`, which "cannot occur" (R76). -/
  | cursorPastLength
  /-- An EncPayload word while `enc_cursor + 1 > enc_len_r`, which "cannot occur" (R142). -/
  | encCursorPastLength
  /-- Bit 4 of an EW differs from `enc_len > 255` (R77), so no step forms this word. -/
  | tooLargeMismatch
  deriving DecidableEq, Repr

/-- Format D by fields (R76): `rst` wins over `in_valid` (D9), then the state code, then the fed byte and the registers. -/
def decodeD (dw : BitVec 13) (c : SelCtx) : Except DecodeError Instr :=
  let b : Byte := dw.extractLsb' 0 8
  let code : BitVec 3 := dw.extractLsb' 8 3
  if dw.getLsbD 12 then .ok (.reset (dw.getLsbD 11) code b)
  else if !dw.getLsbD 11 then .ok (.idle code b)
  else
    match DecState.ofCode code with
    | none => .ok (.feedIllstate b)
    | some .awaitingStart => if b = Config.START then .ok .feedStartOk else .ok (.feedStartBad b)
    | some .awaitingLength => if b = 0x00#8 then .ok .feedLenZero else .ok (.feedLenNonzero b)
    | some .awaitingPayload =>
      if c.payloadMore then .ok (.feedPayloadMore b)
      else if c.payloadLast then .ok (.feedPayloadLast b)
      else .error .cursorPastLength
    | some .awaitingChecksum => if b = c.checksumAcc then .ok (.feedCksumOk b) else .ok (.feedCksumBad b)
    | some .awaitingEnd => if b = Config.END then .ok .feedEndOk else .ok (.feedEndBad b)
    | some .done => .ok (.feedDone b)
    | some .failed => .ok (.feedFailed b)

/-- Format E by fields (R77): `enc_rst` wins; `enc_start` is looked at only in EncIdle; elsewhere `out_ready` decides between
an emitting row and ENC.STALL, and the two codes that are no phase select ENC.ILLPHASE whatever `out_ready` is. -/
def decodeE (ew : BitVec 7) (encLen : EncLen) (c : SelCtx) : Except DecodeError Instr :=
  let code : BitVec 3 := ew.extractLsb' 0 3
  let y := ew.getLsbD 3
  let t := ew.getLsbD 4
  let st := ew.getLsbD 5
  if t ≠ tooLargeBit encLen then .error .tooLargeMismatch
  else if ew.getLsbD 6 then .ok (.encReset st t y code)
  else
    match EncPhase.ofCode code with
    | none => .ok (.encIllphase st t y (ew.getLsbD 0))
    | some .encIdle =>
      if !st then .ok (.encIdle t y)
      else if t then .ok (.encStartTooLarge y encLen)
      else .ok (.encStartOk y (encLen.extractLsb' 0 8))
    | some .encStart => if y then .ok (.encEmitStart st t) else .ok (.encStall st t .encStart)
    | some .encLength =>
      if !y then .ok (.encStall st t .encLength)
      else if c.encLenR = 0x00#8 then .ok (.encEmitLengthZ st t)
      else .ok (.encEmitLengthNz st t)
    | some .encPayload =>
      if !y then .ok (.encStall st t .encPayload)
      else if c.encMore then .ok (.encEmitPayloadMore st t)
      else if c.encLast then .ok (.encEmitPayloadLast st t)
      else .error .encCursorPastLength
    | some .encChecksum => if y then .ok (.encEmitChecksum st t) else .ok (.encStall st t .encChecksum)
    | some .encEnd => if y then .ok (.encEmitEnd st t) else .ok (.encStall st t .encEnd)

/-- Format K by fields (R78): `ck_clr` wins over `ck_en`. -/
def decodeK (kw : BitVec 10) : Instr :=
  let b : Byte := kw.extractLsb' 0 8
  if kw.getLsbD 9 then .ckClr (kw.getLsbD 8) b
  else if kw.getLsbD 8 then .ckAdd b
  else .ckHold b

/-- The row a word selects while the registers are as `c` says. Total: a row, or a named reason why there is none. -/
def decode (w : DispatchWord) (c : SelCtx) : Except DecodeError Instr :=
  match w with
  | .d dw => decodeD dw c
  | .e ew n => decodeE ew n c
  | .k kw => .ok (decodeK kw)
  | .result => .ok .result
  | .rdPayload a => .ok (.rdPayload a)
  | .encode p => .ok (.encode p)
  | .cksum8 l => .ok (.cksum8 l)

/-! ## Encoding -/

/-- One bit of a word. -/
def bit (b : Bool) : BitVec 1 := BitVec.ofBool b

/-- A value of the port `enc_len` whose `too_large` is `t`, for the rows that ignore the rest of it: 256, "the smallest refused
value" (R135), or 0. -/
def canonicalEncLen (t : Bool) : EncLen := if t then 0x0100#16 else 0x0000#16

/-- The word of a row, written from the patterns of R76, R77 and R78, bit for bit. -/
def encode : Instr → DispatchWord
  | .reset v s b => .d (0b1#1 ++ bit v ++ s ++ b)
  | .idle s b => .d (0b00#2 ++ s ++ b)
  | .feedStartOk => .d 0b0100000000010#13
  | .feedStartBad b => .d (0b01000#5 ++ b)
  | .feedLenZero => .d 0b0100100000000#13
  | .feedLenNonzero b => .d (0b01001#5 ++ b)
  | .feedPayloadMore b => .d (0b01010#5 ++ b)
  | .feedPayloadLast b => .d (0b01010#5 ++ b)
  | .feedCksumOk b => .d (0b01011#5 ++ b)
  | .feedCksumBad b => .d (0b01011#5 ++ b)
  | .feedEndOk => .d 0b0110000000011#13
  | .feedEndBad b => .d (0b01100#5 ++ b)
  | .feedDone b => .d (0b01101#5 ++ b)
  | .feedFailed b => .d (0b01110#5 ++ b)
  | .feedIllstate b => .d (0b01111#5 ++ b)
  | .result => .result
  | .rdPayload a => .rdPayload a
  | .encReset s t y p => .e (0b1#1 ++ bit s ++ bit t ++ bit y ++ p) (canonicalEncLen t)
  | .encStartOk y n => .e (0b010#3 ++ bit y ++ 0b000#3) (n.setWidth 16)
  | .encStartTooLarge y n => .e (0b011#3 ++ bit y ++ 0b000#3) n
  | .encIdle t y => .e (0b00#2 ++ bit t ++ bit y ++ 0b000#3) (canonicalEncLen t)
  | .encEmitStart s t => .e (0b0#1 ++ bit s ++ bit t ++ 0b1001#4) (canonicalEncLen t)
  | .encEmitLengthNz s t => .e (0b0#1 ++ bit s ++ bit t ++ 0b1010#4) (canonicalEncLen t)
  | .encEmitLengthZ s t => .e (0b0#1 ++ bit s ++ bit t ++ 0b1010#4) (canonicalEncLen t)
  | .encEmitPayloadMore s t => .e (0b0#1 ++ bit s ++ bit t ++ 0b1011#4) (canonicalEncLen t)
  | .encEmitPayloadLast s t => .e (0b0#1 ++ bit s ++ bit t ++ 0b1011#4) (canonicalEncLen t)
  | .encEmitChecksum s t => .e (0b0#1 ++ bit s ++ bit t ++ 0b1100#4) (canonicalEncLen t)
  | .encEmitEnd s t => .e (0b0#1 ++ bit s ++ bit t ++ 0b1101#4) (canonicalEncLen t)
  | .encIllphase s t y p => .e (0b0#1 ++ bit s ++ bit t ++ bit y ++ 0b11#2 ++ bit p) (canonicalEncLen t)
  | .encStall s t p => .e (0b0#1 ++ bit s ++ bit t ++ 0b0#1 ++ p.code) (canonicalEncLen t)
  | .ckClr e b => .k (0b1#1 ++ bit e ++ b)
  | .ckAdd b => .k (0b01#2 ++ b)
  | .ckHold b => .k (0b00#2 ++ b)
  | .encode p => .encode p
  | .cksum8 l => .cksum8 l

/-- The extra condition of a row on registers (the column "extra condition" of R76 and R77, less the conditions by priority):
what the registers must be for the row's word to select it. -/
def Instr.registersAllow (i : Instr) (c : SelCtx) : Bool :=
  match i with
  | .feedPayloadMore _ => c.payloadMore
  | .feedPayloadLast _ => c.payloadLast
  | .feedCksumOk b => b == c.checksumAcc
  | .feedCksumBad b => b != c.checksumAcc
  | .encEmitLengthNz _ _ => c.encLenR != 0x00#8
  | .encEmitLengthZ _ _ => c.encLenR == 0x00#8
  | .encEmitPayloadMore _ _ => c.encMore
  | .encEmitPayloadLast _ _ => c.encLast
  | .reset _ _ _ | .idle _ _ | .feedStartOk | .feedStartBad _ | .feedLenZero | .feedLenNonzero _ | .feedEndOk
  | .feedEndBad _ | .feedDone _ | .feedFailed _ | .feedIllstate _ | .result | .rdPayload _ | .encReset _ _ _ _
  | .encStartOk _ _ | .encStartTooLarge _ _ | .encIdle _ _ | .encEmitStart _ _ | .encEmitChecksum _ _
  | .encEmitEnd _ _ | .encIllphase _ _ _ _ | .encStall _ _ _ | .ckClr _ _ | .ckAdd _ | .ckHold _ | .encode _
  | .cksum8 _ => true

/-! ## Formats -/

/-- The formats of operations (30_encoding.md R74, R86). -/
inductive Format where
  | d
  | r
  | e
  | k
  | function
  deriving DecidableEq, Repr

/-- The format of a row (the column "format" of opcode_table.json). -/
def Instr.format : Instr → Format
  | .reset _ _ _ | .idle _ _ | .feedStartOk | .feedStartBad _ | .feedLenZero | .feedLenNonzero _ | .feedPayloadMore _
  | .feedPayloadLast _ | .feedCksumOk _ | .feedCksumBad _ | .feedEndOk | .feedEndBad _ | .feedDone _ | .feedFailed _
  | .feedIllstate _ => .d
  | .result | .rdPayload _ => .r
  | .encReset _ _ _ _ | .encStartOk _ _ | .encStartTooLarge _ _ | .encIdle _ _ | .encEmitStart _ _
  | .encEmitLengthNz _ _ | .encEmitLengthZ _ _ | .encEmitPayloadMore _ _ | .encEmitPayloadLast _ _
  | .encEmitChecksum _ _ | .encEmitEnd _ _ | .encIllphase _ _ _ _ | .encStall _ _ _ => .e
  | .ckClr _ _ | .ckAdd _ | .ckHold _ => .k
  | .encode _ | .cksum8 _ => .function

/-! ## The table -/

/-- The row's name in opcode_table.json. -/
def Instr.mnemonic : Instr → String
  | .reset _ _ _ => "RESET"
  | .idle _ _ => "IDLE"
  | .feedStartOk => "FEED.START_OK"
  | .feedStartBad _ => "FEED.START_BAD"
  | .feedLenZero => "FEED.LEN_ZERO"
  | .feedLenNonzero _ => "FEED.LEN_NONZERO"
  | .feedPayloadMore _ => "FEED.PAYLOAD_MORE"
  | .feedPayloadLast _ => "FEED.PAYLOAD_LAST"
  | .feedCksumOk _ => "FEED.CKSUM_OK"
  | .feedCksumBad _ => "FEED.CKSUM_BAD"
  | .feedEndOk => "FEED.END_OK"
  | .feedEndBad _ => "FEED.END_BAD"
  | .feedDone _ => "FEED.DONE"
  | .feedFailed _ => "FEED.FAILED"
  | .feedIllstate _ => "FEED.ILLSTATE"
  | .result => "RESULT"
  | .rdPayload _ => "RDPAYLOAD"
  | .encReset _ _ _ _ => "ENC.RESET"
  | .encStartOk _ _ => "ENC.START_OK"
  | .encStartTooLarge _ _ => "ENC.START_TOOLARGE"
  | .encIdle _ _ => "ENC.IDLE"
  | .encEmitStart _ _ => "ENC.EMIT_START"
  | .encEmitLengthNz _ _ => "ENC.EMIT_LENGTH_NZ"
  | .encEmitLengthZ _ _ => "ENC.EMIT_LENGTH_Z"
  | .encEmitPayloadMore _ _ => "ENC.EMIT_PAYLOAD_MORE"
  | .encEmitPayloadLast _ _ => "ENC.EMIT_PAYLOAD_LAST"
  | .encEmitChecksum _ _ => "ENC.EMIT_CHECKSUM"
  | .encEmitEnd _ _ => "ENC.EMIT_END"
  | .encIllphase _ _ _ _ => "ENC.ILLPHASE"
  | .encStall _ _ _ => "ENC.STALL"
  | .ckClr _ _ => "CK.CLR"
  | .ckAdd _ => "CK.ADD"
  | .ckHold _ => "CK.HOLD"
  | .encode _ => "ENCODE"
  | .cksum8 _ => "CKSUM8"

/-- The extra condition of a row of the table ("cond" of R86), as data. -/
inductive RowCond where
  | always
  | payloadMore
  | payloadLast
  | cksumOk
  | cksumBad
  | lenNonzero
  | lenZero
  | encMore
  | encLast
  deriving DecidableEq, Repr

/-- Whether a row's extra condition holds; `b` is the fed byte. -/
def RowCond.holds (k : RowCond) (c : SelCtx) (b : Byte) : Bool :=
  match k with
  | .always => true
  | .payloadMore => c.payloadMore
  | .payloadLast => c.payloadLast
  | .cksumOk => b == c.checksumAcc
  | .cksumBad => b != c.checksumAcc
  | .lenNonzero => c.encLenR != 0x00#8
  | .lenZero => c.encLenR == 0x00#8
  | .encMore => c.encMore
  | .encLast => c.encLast

/-- One row of a format with words of `n` bits: `mask`, `match` and "cond" of R86. -/
structure Row (n : Nat) where
  mnemonic : String
  mask : BitVec n
  pattern : BitVec n
  cond : RowCond := .always
  deriving DecidableEq, Repr

/-- Whether `(word AND mask) = match` (R74). -/
def Row.fits {n : Nat} (r : Row n) (w : BitVec n) : Bool := (w &&& r.mask) == r.pattern

/-- "tries the rows of one format in ascending `priority` and takes the first whose mask and match fit and whose `cond`, if
any, holds" (R86). -/
def selectRow {n : Nat} (rows : List (Row n)) (w : BitVec n) (c : SelCtx) (b : Byte) : Option String :=
  (rows.find? fun r => r.fits w && r.cond.holds c b).map Row.mnemonic

/-- Format D in ascending priority (R76). -/
def rowsD : List (Row 13) :=
  [ ⟨"RESET", 0x1000#13, 0x1000#13, .always⟩,
    ⟨"IDLE", 0x1800#13, 0x0000#13, .always⟩,
    ⟨"FEED.START_OK", 0x1FFF#13, 0x0802#13, .always⟩,
    ⟨"FEED.START_BAD", 0x1F00#13, 0x0800#13, .always⟩,
    ⟨"FEED.LEN_ZERO", 0x1FFF#13, 0x0900#13, .always⟩,
    ⟨"FEED.LEN_NONZERO", 0x1F00#13, 0x0900#13, .always⟩,
    ⟨"FEED.PAYLOAD_MORE", 0x1F00#13, 0x0A00#13, .payloadMore⟩,
    ⟨"FEED.PAYLOAD_LAST", 0x1F00#13, 0x0A00#13, .payloadLast⟩,
    ⟨"FEED.CKSUM_OK", 0x1F00#13, 0x0B00#13, .cksumOk⟩,
    ⟨"FEED.CKSUM_BAD", 0x1F00#13, 0x0B00#13, .cksumBad⟩,
    ⟨"FEED.END_OK", 0x1FFF#13, 0x0C03#13, .always⟩,
    ⟨"FEED.END_BAD", 0x1F00#13, 0x0C00#13, .always⟩,
    ⟨"FEED.DONE", 0x1F00#13, 0x0D00#13, .always⟩,
    ⟨"FEED.FAILED", 0x1F00#13, 0x0E00#13, .always⟩,
    ⟨"FEED.ILLSTATE", 0x1F00#13, 0x0F00#13, .always⟩ ]

/-- Format E in ascending priority (R77). -/
def rowsE : List (Row 7) :=
  [ ⟨"ENC.RESET", 0x40#7, 0x40#7, .always⟩,
    ⟨"ENC.START_OK", 0x77#7, 0x20#7, .always⟩,
    ⟨"ENC.START_TOOLARGE", 0x77#7, 0x30#7, .always⟩,
    ⟨"ENC.IDLE", 0x67#7, 0x00#7, .always⟩,
    ⟨"ENC.EMIT_START", 0x4F#7, 0x09#7, .always⟩,
    ⟨"ENC.EMIT_LENGTH_NZ", 0x4F#7, 0x0A#7, .lenNonzero⟩,
    ⟨"ENC.EMIT_LENGTH_Z", 0x4F#7, 0x0A#7, .lenZero⟩,
    ⟨"ENC.EMIT_PAYLOAD_MORE", 0x4F#7, 0x0B#7, .encMore⟩,
    ⟨"ENC.EMIT_PAYLOAD_LAST", 0x4F#7, 0x0B#7, .encLast⟩,
    ⟨"ENC.EMIT_CHECKSUM", 0x4F#7, 0x0C#7, .always⟩,
    ⟨"ENC.EMIT_END", 0x4F#7, 0x0D#7, .always⟩,
    ⟨"ENC.ILLPHASE", 0x46#7, 0x06#7, .always⟩,
    ⟨"ENC.STALL", 0x48#7, 0x00#7, .always⟩ ]

/-- Format K in ascending priority (R78). -/
def rowsK : List (Row 10) :=
  [ ⟨"CK.CLR", 0x200#10, 0x200#10, .always⟩,
    ⟨"CK.ADD", 0x300#10, 0x100#10, .always⟩,
    ⟨"CK.HOLD", 0x300#10, 0x000#10, .always⟩ ]

/-! ## The words as the table numbers them -/

/-- The word of `nbits` bits with value `w`, in the format that has words of so many bits: 13 bits format D, 10 bits format K,
7 bits format E, none formats R and function (their first row). Rounded to whole bytes E is 8 bits, and D and K are both 16:
there a word with bits 15..10 zero and bits 9..8 not both zero is read as format K and every other as format D, whose
canonical IDLE is 0x0000 (R76). DESIGN CHOICE, log 2. The operand port of an EW is taken as the table's operand word of
zeros where bit 4 is 0, and as the smallest value with that bit where it is 1. -/
def tableWord (nbits w : Nat) : Option DispatchWord :=
  if nbits = 13 ∨ nbits = 16 ∧ (w < 0x100 ∨ 0x400 ≤ w) then
    if w < 2 ^ 13 then some (.d (BitVec.ofNat 13 w)) else none
  else if nbits = 10 ∨ nbits = 16 then
    if w < 2 ^ 10 then some (.k (BitVec.ofNat 10 w)) else none
  else if nbits = 7 ∨ nbits = 8 then
    if w < 2 ^ 7 then some (.e (BitVec.ofNat 7 w) (canonicalEncLen (w.testBit 4))) else none
  else if nbits = 0 ∧ w = 0 then some .result
  else none

/-- The registers a table word is read against: a two-byte payload about to take its first byte, in both blocks, so that every
word of a row has a row to select (log 2). -/
def tableCtx : SelCtx :=
  { writeCursor := 0x00#8, declaredLength := 0x02#8, checksumAcc := 0x00#8, encLenR := 0x02#8, encCursor := 0x00#8 }

/-- The instruction the decoder reads from a word as opcode_table.json numbers its bits. -/
def decodeTableWord (nbits w : Nat) : Option Instr :=
  (tableWord nbits w).bind fun dw => (decode dw tableCtx).toOption

end Sys2Proof
end

