-- ==== Sys2Proof/Machine/State.lean ====
section
/-! DEFINITION. The state of the machine: the decoder context, the encoder's registers, a stand-alone CK8, the encoder's payload
source (10_state.md R20 to R42, 20_memory.md R50, R51), and the environment's side of the pins (R9, R12, R37). Plain data. -/

namespace Sys2Proof.Machine

/-- A byte memory: the cells something has written, addresses strictly rising. A cell that is not listed holds no value the
model knows; its readers answer a free value (logs 8, 9). -/
abbrev Memory := List Host.Cell

/-- The DecoderContext (10_state.md R20 to R26). -/
structure Decoder where
  /-- `state` (R20). -/
  state : DecState
  /-- `declared_length` (R22). -/
  declaredLength : Byte
  /-- `write_cursor` (R23). -/
  writeCursor : Byte
  /-- `checksum_acc`, the `ck_sum` of the decoder's CK8 (R24). -/
  checksumAcc : Byte
  /-- `fail_cause`: false is 0, Malformed; true is 1, ChecksumMismatch (R26). -/
  failCause : Bool
  /-- `payload_buffer`: cells 0 to 254 (R25, R50). -/
  buffer : Memory
  deriving DecidableEq, Repr

/-- The encoder's registers (10_state.md R34). -/
structure Encoder where
  /-- `enc_phase`. -/
  phase : EncPhase
  /-- `enc_len_r`. -/
  lenR : Byte
  /-- `enc_cursor`. -/
  cursor : Byte
  /-- `enc_acc`, the `ck_sum` of the encoder's CK8. -/
  acc : Byte
  /-- `enc_err`. -/
  err : Bool
  deriving DecidableEq, Repr

/-- The pins of the decoder the caller drives (10_state.md R32). -/
structure DecPins where
  rst : Bool
  inValid : Bool
  inByte : Byte
  deriving DecidableEq, Repr

/-- The pins of the encoder the caller drives (10_state.md R35); `pl_data` comes from the payload source (R56). -/
structure EncPins where
  rst : Bool
  start : Bool
  len : EncLen
  outReady : Bool
  deriving DecidableEq, Repr

/-- The pins of a stand-alone CK8 (10_state.md R36). -/
structure CkPins where
  clr : Bool
  en : Bool
  byte : Byte
  deriving DecidableEq, Repr

/-- What the decoder's byte port is wired to in a step: the caller's pins, or the encoder's output (LOOPBACK of 30_encoding.md
R84). -/
inductive Wiring where
  | driven
  | loopback
  deriving DecidableEq, Repr

/-- One choice of the environment. -/
inductive Input where
  /-- A rising edge of `clk` with these pins: each block performs one operation (00_scope.md R9). -/
  | edge (wiring : Wiring) (d : DecPins) (e : EncPins) (k : CkPins)
  /-- One operation selected by its dispatch word given whole, the other blocks holding; also how RESULT, RDPAYLOAD and the two
  functions, which no pin selects, are asked for (log 4). -/
  | word (w : DispatchWord)
  /-- The environment puts the payload `p` into the encoder's payload source (20_memory.md R56, log 9). -/
  | present (p : List Byte)
  deriving DecidableEq, Repr

/-- A byte transferred on the encoder's output, with `out_last` (R137). -/
structure Transfer where
  byte : Byte
  last : Bool
  deriving DecidableEq, Repr

/-- What a reading operation answered. -/
inductive ReadOut where
  /-- RESULT: `verdict`, `payload_len`, and the payload where the verdict is Complete (R116, R117). -/
  | result (verdict : Verdict) (payloadLen : Byte) (payload : List Byte)
  /-- RDPAYLOAD at `rdAddr`: `payload_len` and `rd_data` (R117). -/
  | rdPayload (rdAddr payloadLen rdData : Byte)
  /-- ENCODE (R130). -/
  | encoded (r : EncodeResult)
  /-- CKSUM8 (R94). -/
  | cksum (sum : Byte)
  deriving DecidableEq, Repr

/-- The machine. -/
structure State where
  /-- The decoder context. -/
  dec : Decoder
  /-- The encoder's registers. -/
  enc : Encoder
  /-- `ck_sum` of a stand-alone CK8 (R36, R42). -/
  ck : Byte
  /-- The encoder's payload source (R51, R56). -/
  payloadSrc : Memory
  /-- MODEL's own: the bytes transferred, oldest first (log 7). -/
  wire : List Transfer
  /-- MODEL's own: the answers of the reading operations, oldest first (log 7). -/
  reads : List ReadOut
  /-- MODEL's own: how many free values of `rd_data` have been drawn (log 10). -/
  draws : Nat
  /-- MODEL's own: the environment's coming inputs, oldest first (log 1). -/
  inputs : List Input
  deriving DecidableEq, Repr

/-- Why a step stops with a fault. -/
inductive Fault where
  /-- Raised by the append of a payload byte (`appendByte`) at a cell the buffer does not have (20_memory.md R50: "Index 255
  does not exist"); no selected row reaches it (INV6 of 10_state.md R30). Safe. -/
  | noSuchCell
  deriving DecidableEq, Repr

/-- Why a step is refused. -/
inductive Refusal where
  /-- Raised by `exec` for an instruction that has no meaning yet; none in this model. Safe. -/
  | notModelled (mnemonic : String)
  /-- Raised by FEED.ILLSTATE on every path: `state` code 0b111 "if forced, behaviour is not defined; a model refuses" (D13,
  R114, U3). Safe. -/
  | illegalStateCode
  /-- Raised by ENC.ILLPHASE on every path: `enc_phase` codes 0b110 and 0b111 (D13, R145, U3). Safe. -/
  | illegalPhaseCode
  /-- Raised by every conditioned row executed in a state whose registers do not select it (log 5). Safe. -/
  | rowNotSelected
  /-- Raised by the fetch for a word no row applies to (log 6). Safe. -/
  | undecodable (e : DecodeError)
  /-- Raised by the fetch when the environment changes the payload during an ENCODE (70_reset_and_hazards.md R190, U6: "the
  changing case is outside the model"; log 9). Safe. -/
  | payloadChanged
  deriving DecidableEq, Repr

/-- The decoder "after creation or RESET" (10_state.md R42). -/
def Decoder.initial : Decoder :=
  { state := .awaitingStart, declaredLength := 0x00#8, writeCursor := 0x00#8, checksumAcc := 0x00#8, failCause := false,
    buffer := [] }

/-- The encoder "after creation and after `enc_rst = 1`" (10_state.md R42). -/
def Encoder.initial : Encoder :=
  { phase := .encIdle, lenR := 0x00#8, cursor := 0x00#8, acc := 0x00#8, err := false }

/-- The machine right after creation (10_state.md R42, 70_reset_and_hazards.md R180). -/
def State.reset : State :=
  { dec := Decoder.initial, enc := Encoder.initial, ck := 0x00#8, payloadSrc := [], wire := [], reads := [], draws := 0,
    inputs := [] }

end Sys2Proof.Machine
end

