-- ==== Sys2Proof/Machine/Memory.lean ====
section
/-! DEFINITION. The primitives over a byte memory (00_scope.md R8 `BufRead`, `BufWrite`, `PayloadSrc`; 20_memory.md R50 to R60) and
the canonical form they keep. -/

namespace Sys2Proof.Machine

/-- The byte written to cell `i`, if any has been. -/
def memRead : Memory → Nat → Option Byte
  | [], _ => none
  | (j, c) :: m, i => if i = j then some c else memRead m i

/-- Write cell `i`, keeping the addresses rising. -/
def memWrite : Memory → Nat → Byte → Memory
  | [], i, b => [(i, b)]
  | (j, c) :: m, i, b =>
    if i < j then (i, b) :: (j, c) :: m
    else if i = j then (i, b) :: m
    else (j, c) :: memWrite m i b

/-- The cells `i`, `i + 1`, … holding the bytes of a list in order. -/
def memFrom : Nat → List Byte → Memory
  | _, [] => []
  | i, b :: l => (i, b) :: memFrom (i + 1) l

/-- The canonical form: addresses strictly rising, and every one below the memory's capacity. An unlisted cell reads as no known
value, so no entry can equal what an unlisted one reads as. -/
abbrev Memory.wf (cap : Nat) (m : Memory) : Prop :=
  m.Pairwise (fun a b => a.1 < b.1) ∧ ∀ c ∈ m, c.1 < cap

/-- `BufRead(i)` (R8): what cell `i` holds, a free value if nothing has written it (R41, U4). -/
def bufRead (d : Decoder) (i : Nat) : Byte := (memRead d.buffer i).getD (Config.powerOnCell i)

/-- "Logical buffer contents: the cells `0` to `write_cursor - 1` of the payload buffer, in index order" (R11, R25). -/
def logicalContents (d : Decoder) : List Byte := (List.range d.writeCursor.toNat).map (bufRead d)

/-- `PayloadSrc(i)` (R8, R56): the byte the environment has presented, a free value if it has presented none (log 9). -/
def payloadByte (m : Memory) (i : Nat) : Byte := (memRead m i).getD (Config.unpresentedPayload i)

/-- `BufWrite(i, b)` (R8): none where the cell does not exist (R50: "Index 255 does not exist"). -/
def bufWrite (m : Memory) (i : Nat) (b : Byte) : Option Memory :=
  if i < Config.BUF_CAP then some (memWrite m i b) else none

/-- The payload source holding the payload `p` from index 0; indices beyond 254 do not exist (R51). -/
def sourceOf (p : List Byte) : Memory := memFrom 0 (p.take Config.SRC_CAP)

end Sys2Proof.Machine
end

