-- ==== Sys2Proof/Machine/Ops.lean ====
section
/-! DEFINITION. The operations the meanings share: register writes, the CK8 unit (40_checksum.md), the append of a payload byte,
the transfer of a wire byte, the recording of an error and the return from one (60_exceptions.md R160 to R162). -/

namespace Sys2Proof.Machine

/-- One step's outcome. -/
abbrev Result := Host.Outcome State Fault Refusal

/-! ## Register writes -/

def Decoder.setState (d : Decoder) (v : DecState) : Decoder := { d with state := v }
def Decoder.setDeclaredLength (d : Decoder) (v : Byte) : Decoder := { d with declaredLength := v }
def Decoder.setWriteCursor (d : Decoder) (v : Byte) : Decoder := { d with writeCursor := v }
def Decoder.setChecksumAcc (d : Decoder) (v : Byte) : Decoder := { d with checksumAcc := v }
def Decoder.setFailCause (d : Decoder) (v : Bool) : Decoder := { d with failCause := v }
def Decoder.setBuffer (d : Decoder) (v : Memory) : Decoder := { d with buffer := v }

def Encoder.setPhase (e : Encoder) (v : EncPhase) : Encoder := { e with phase := v }
def Encoder.setLenR (e : Encoder) (v : Byte) : Encoder := { e with lenR := v }
def Encoder.setCursor (e : Encoder) (v : Byte) : Encoder := { e with cursor := v }
def Encoder.setAcc (e : Encoder) (v : Byte) : Encoder := { e with acc := v }
def Encoder.setErr (e : Encoder) (v : Bool) : Encoder := { e with err := v }

def State.setDec (s : State) (v : Decoder) : State := { s with dec := v }
def State.setEnc (s : State) (v : Encoder) : State := { s with enc := v }
def State.setCk (s : State) (v : Byte) : State := { s with ck := v }
def State.setPayloadSrc (s : State) (v : Memory) : State := { s with payloadSrc := v }
def State.setWire (s : State) (v : List Transfer) : State := { s with wire := v }
def State.setReads (s : State) (v : List ReadOut) : State := { s with reads := v }
def State.setDraws (s : State) (v : Nat) : State := { s with draws := v }
def State.setInputs (s : State) (v : List Input) : State := { s with inputs := v }

/-! ## The CK8 unit (40_checksum.md) -/

/-- The three commands of a CK8 (R90, R92, R93, R95). -/
inductive CkCommand where
  | clr
  | add
  | hold
  deriving DecidableEq, Repr

/-- CK.CLR: `ck_sum <- 0x00` (R92). -/
def ck8Clr : Byte := 0x00#8

/-- CK.ADD: `trunc_8(zext_9(ck_sum) + zext_9(ck_byte))` (R93). -/
def ck8Add (sum b : Byte) : Byte := (sum.setWidth 9 + b.setWidth 9).setWidth 8

/-- CK.HOLD: `ck_sum <- ck_sum` (R95). -/
def ck8Hold (sum : Byte) : Byte := sum

/-- One step of a CK8 (R90). -/
def ck8Step (k : CkCommand) (sum b : Byte) : Byte :=
  match k with
  | .clr => ck8Clr
  | .add => ck8Add sum b
  | .hold => ck8Hold sum

/-- `sum8(l)`, "the sum of the elements of `l` modulo 256, `sum8([]) = 0`" (R8, R94). -/
def sum8 : List Byte → Byte
  | [] => 0x00#8
  | b :: l => b + sum8 l

/-- `CKSUM8(l)` (R94): of the PAYLOAD bytes only, never of LENGTH (R96, 90_conflicts.md C5). -/
def cksum8Of (l : List Byte) : Byte := sum8 l

/-! ## Selection -/

/-- A row's effect where the row is selected; elsewhere no step performs the row (log 5). -/
def onlyIf (selected : Bool) (r : Result) : Result := if selected then r else .refused .rowNotSelected

/-! ## Errors: entry and return (60_exceptions.md section 3) -/

/-- Error entry, "the analogue of trap entry": `state <- Failed` and `fail_cause` for a decoder error (R160), `enc_err <- 1` for
PayloadTooLarge (R162). "Nothing is saved anywhere, control goes nowhere"; every other register keeps its value (D25). -/
def raiseError (e : ErrorName) (s : State) : State :=
  match e with
  | .malformed => s.setDec ((s.dec.setState .failed).setFailCause false)
  | .checksumMismatch => s.setDec ((s.dec.setState .failed).setFailCause true)
  | .payloadTooLarge => s.setEnc (s.enc.setErr true)

/-- Error return: RESET "restores nothing, it starts afresh" (R161, R100). The buffer's cells are not erased (R41). -/
def resetDecoder (s : State) : State := s.setDec (Decoder.initial.setBuffer s.dec.buffer)

/-- ENC.RESET, the encoder's own reset (R132). -/
def resetEncoder (s : State) : State := s.setEnc Encoder.initial

/-! ## The append of a payload byte -/

/-- The three writes that FEED.PAYLOAD_MORE and FEED.PAYLOAD_LAST share (R106, R107): `BufWrite(write_cursor, b)`, CK.ADD of the
fed byte, `write_cursor + 1`; and the next state. -/
def appendByte (b : Byte) (nextState : DecState) (s : State) : Result :=
  match bufWrite s.dec.buffer s.dec.writeCursor.toNat b with
  | none => .fault .noSuchCell
  | some buf =>
    .next (s.setDec ((((s.dec.setBuffer buf).setChecksumAcc (ck8Add s.dec.checksumAcc b)).setWriteCursor
      (s.dec.writeCursor + 1)).setState nextState))

/-! ## The encoder's output -/

/-- `out_last`: "1 when `enc_phase = EncEnd`" (R35, R137). -/
def outLast (s : State) : Bool := s.enc.phase == .encEnd

/-- `Emit(b)` (R8, R137): the byte is transferred. -/
def emit (b : Byte) (s : State) : State := s.setWire (s.wire ++ [{ byte := b, last := outLast s }])

/-- The byte the payload source shows on `pl_data`: `PayloadSrc(pl_addr)` with `pl_addr = enc_cursor` (R56, R137). -/
def plData (s : State) : Byte := payloadByte s.payloadSrc s.enc.cursor.toNat

/-- What ENC.EMIT_PAYLOAD_MORE and ENC.EMIT_PAYLOAD_LAST share (R141, R142): the transfer, CK.ADD of the byte, `enc_cursor + 1`;
and the next phase. -/
def emitPayload (nextPhase : EncPhase) (s : State) : State :=
  (emit (plData s) s).setEnc
    (((s.enc.setAcc (ck8Add s.enc.acc (plData s))).setCursor (s.enc.cursor + 1)).setPhase nextPhase)

/-! ## Answers -/

/-- A reading operation's answer reaches the caller (log 7). -/
def answer (r : ReadOut) (s : State) : State := s.setReads (s.reads ++ [r])

end Sys2Proof.Machine
end

