-- ==== Sys2Proof/Machine/Flags.lean ====
section
/-! DEFINITION. The status outputs: functions of the registers, with no storage (10_state.md R31, R32, R35; 42_encoder.md R137). Where the
spec calls an output unspecified, the function has no value (logs 10, 11). -/

namespace Sys2Proof.Machine

/-- The `verdict` output (R31, R116). -/
def verdict (d : Decoder) : Verdict :=
  match d.state with
  | .done => .complete
  | .failed => if d.failCause then .checksumMismatch else .malformed
  | .awaitingStart | .awaitingLength | .awaitingPayload | .awaitingChecksum | .awaitingEnd => .pending

/-- The `payload_len` output: `declared_length` (R32, R117). -/
def payloadLen (d : Decoder) : Byte := d.declaredLength

/-- The window in which `rd_data` is specified: `state = Done` and `rd_addr < declared_length` (R53, R117). -/
def rdInWindow (d : Decoder) (a : Byte) : Bool := d.state == .done && decide (a.toNat < d.declaredLength.toNat)

/-- The `rd_data` output where it is specified: `BufRead(rd_addr)` (R53, R117). -/
def rdData (d : Decoder) (a : Byte) : Option Byte := if rdInWindow d a then some (bufRead d a.toNat) else none

/-- The payload delivered with a verdict: `[BufRead(0), ..., BufRead(payload_len - 1)]` with Complete, none otherwise (R53,
R117). -/
def deliveredPayload (d : Decoder) : List Byte :=
  match verdict d with
  | .complete => (List.range (payloadLen d).toNat).map (bufRead d)
  | .pending | .checksumMismatch | .malformed => []

/-- `out_valid` (R35, R137). -/
def outValid (s : State) : Bool := s.enc.phase != .encIdle

/-- `enc_busy`, "equals `out_valid`" (R35). -/
def encBusy (s : State) : Bool := outValid s

/-- `pl_addr = enc_cursor` (R35, R137). -/
def plAddr (s : State) : Byte := s.enc.cursor

/-- The `enc_err` output (R35). -/
def encErr (s : State) : Bool := s.enc.err

/-- The `out_byte` output; "unspecified if enc_phase = EncIdle" (R137, U5). -/
def outByte (s : State) : Option Byte :=
  match s.enc.phase with
  | .encIdle => none
  | .encStart => some Config.START
  | .encLength => some s.enc.lenR
  | .encPayload => some (plData s)
  | .encChecksum => some s.enc.acc
  | .encEnd => some Config.END

/-- Whether an edge with these pins transfers a byte: `out_valid = 1` and `out_ready = 1` (R137), and no ENC.RESET, in whose step
none is transferred whatever `out_ready` is (R132). -/
def transfers (e : EncPins) (s : State) : Bool := !e.rst && outValid s && e.outReady

/-- The `ck_sum` output of a stand-alone CK8 (R36). -/
def ckSum (s : State) : Byte := s.ck

end Sys2Proof.Machine
end

