-- ==== Sys2Proof/Machine/Operands.lean ====
section
/-! DEFINITION. Operand forms: how a step's dispatch words are made from the pins and the registers (30_encoding.md R76 to R78), when a row is
selected, the input classes and the state by class matrix (R75, R85), and which command each operation gives its CK8 (R90). -/

namespace Sys2Proof.Machine

/-- The registers that selection reads (R76, R77). -/
def selCtx (s : State) : SelCtx :=
  { writeCursor := s.dec.writeCursor, declaredLength := s.dec.declaredLength, checksumAcc := s.dec.checksumAcc,
    encLenR := s.enc.lenR, encCursor := s.enc.cursor }

/-! ## Words from pins -/

/-- The decoder's command word `CW[9:0] = rst ++ in_valid ++ in_byte` (R76). -/
def DecPins.commandWord (p : DecPins) : BitVec 10 := bit p.rst ++ bit p.inValid ++ p.inByte

/-- `DW[12:0] = rst ++ in_valid ++ state[2:0] ++ in_byte[7:0]` (R76). -/
def dispatchWordD (p : DecPins) (st : DecState) : BitVec 13 := bit p.rst ++ bit p.inValid ++ st.code ++ p.inByte

/-- The encoder's command word `ECW[2:0] = enc_rst ++ enc_start ++ out_ready` (R77). -/
def EncPins.commandWord (p : EncPins) : BitVec 3 := bit p.rst ++ bit p.start ++ bit p.outReady

/-- `EW[6:0] = enc_rst ++ enc_start ++ too_large ++ out_ready ++ enc_phase[2:0]` (R77). -/
def dispatchWordE (p : EncPins) (ph : EncPhase) : BitVec 7 :=
  bit p.rst ++ bit p.start ++ bit (tooLargeBit p.len) ++ bit p.outReady ++ ph.code

/-- `KW[9:0] = ck_clr ++ ck_en ++ ck_byte[7:0]` (R78). -/
def dispatchWordK (p : CkPins) : BitVec 10 := bit p.clr ++ bit p.en ++ p.byte

/-- The decoder's pins as wired: in LOOPBACK `out_byte` drives `in_byte` and the transfer drives `in_valid` (R84, D30), so an
ENC.RESET step, which transfers nothing (R132), feeds nothing (log 14). `in_byte` is ignored while `in_valid = 0` (U5), and is
0x00 where `out_byte` has no value. -/
def wiredPins (w : Wiring) (p : DecPins) (e : EncPins) (s : State) : DecPins :=
  match w with
  | .driven => p
  | .loopback => { p with inValid := transfers e s, inByte := (outByte s).getD 0x00#8 }

/-! ## When a row is selected -/

/-- The row's "Condition": the decoder state or encoder phase its pattern fixes, its extra condition on registers, and its
operand condition (R76, R77; R102 to R114, R133 to R145). Don't-care bits are not looked at; the stall row's phase bits are
the phase. -/
def selected (i : Instr) (s : State) : Bool :=
  match i with
  | .reset _ _ _ => true
  | .idle _ _ => true
  | .feedStartOk => s.dec.state == .awaitingStart
  | .feedStartBad b => s.dec.state == .awaitingStart && b != Config.START
  | .feedLenZero => s.dec.state == .awaitingLength
  | .feedLenNonzero b => s.dec.state == .awaitingLength && b != 0x00#8
  | .feedPayloadMore _ => s.dec.state == .awaitingPayload && (selCtx s).payloadMore
  | .feedPayloadLast _ => s.dec.state == .awaitingPayload && (selCtx s).payloadLast
  | .feedCksumOk b => s.dec.state == .awaitingChecksum && b == s.dec.checksumAcc
  | .feedCksumBad b => s.dec.state == .awaitingChecksum && b != s.dec.checksumAcc
  | .feedEndOk => s.dec.state == .awaitingEnd
  | .feedEndBad b => s.dec.state == .awaitingEnd && b != Config.END
  | .feedDone _ => s.dec.state == .done
  | .feedFailed _ => s.dec.state == .failed
  | .feedIllstate _ => false
  | .result => true
  | .rdPayload _ => true
  | .encReset _ _ _ _ => true
  | .encStartOk _ _ => s.enc.phase == .encIdle
  | .encStartTooLarge _ n => s.enc.phase == .encIdle && tooLargeBit n
  | .encIdle _ _ => s.enc.phase == .encIdle
  | .encEmitStart _ _ => s.enc.phase == .encStart
  | .encEmitLengthNz _ _ => s.enc.phase == .encLength && s.enc.lenR != 0x00#8
  | .encEmitLengthZ _ _ => s.enc.phase == .encLength && s.enc.lenR == 0x00#8
  | .encEmitPayloadMore _ _ => s.enc.phase == .encPayload && (selCtx s).encMore
  | .encEmitPayloadLast _ _ => s.enc.phase == .encPayload && (selCtx s).encLast
  | .encEmitChecksum _ _ => s.enc.phase == .encChecksum
  | .encEmitEnd _ _ => s.enc.phase == .encEnd
  | .encIllphase _ _ _ _ => false
  | .encStall _ _ p => s.enc.phase == p && p != .encIdle
  | .ckClr _ _ => true
  | .ckAdd _ => true
  | .ckHold _ => true
  | .encode _ => true
  | .cksum8 _ => true

/-! ## Input classes -/

/-- The class of a byte fed in a state (R75). -/
def inputClass (st : DecState) (b : Byte) : InputClass :=
  match st with
  | .awaitingStart => if b = Config.START then .start else .other
  | .awaitingLength => .length
  | .awaitingPayload => .payload
  | .awaitingChecksum => .checksum
  | .awaitingEnd => if b = Config.END then .endMarker else .other
  | .done => .other
  | .failed => .other

/-- The state by class matrix (R85): the next state, none where the matrix says "n/a". `zero` is "byte = 0", `last` "the last
byte", `hit` "match". -/
def nextState (st : DecState) (k : InputClass) (zero last hit : Bool) : Option DecState :=
  match st, k with
  | .awaitingStart, .start => some .awaitingLength
  | .awaitingStart, .other => some .failed
  | .awaitingLength, .length => some (if zero then .awaitingChecksum else .awaitingPayload)
  | .awaitingPayload, .payload => some (if last then .awaitingChecksum else .awaitingPayload)
  | .awaitingChecksum, .checksum => some (if hit then .awaitingEnd else .failed)
  | .awaitingEnd, .endMarker => some .done
  | .awaitingEnd, .other => some .failed
  | .done, .other => some .done
  | .failed, .other => some .failed
  | _, _ => none

/-! ## What each operation commands of the two private CK8 instances (R90) -/

/-- The decoder's instance: "RESET drives CK.CLR; every FEED taken in `AwaitingPayload` drives CK.ADD with `ck_byte = in_byte`;
every other decoder operation drives CK.HOLD" (R90). -/
def decoderCkCommand : Instr → CkCommand × Byte
  | .reset _ _ _ => (.clr, 0x00#8)
  | .feedPayloadMore b => (.add, b)
  | .feedPayloadLast b => (.add, b)
  | _ => (.hold, 0x00#8)

/-- The encoder's instance: "ENC.RESET and ENC.START_OK drive CK.CLR; every payload-emitting step drives CK.ADD with `ck_byte =
pl_data`; everything else drives CK.HOLD" (R90). -/
def encoderCkCommand (s : State) : Instr → CkCommand × Byte
  | .encReset _ _ _ _ => (.clr, 0x00#8)
  | .encStartOk _ _ => (.clr, 0x00#8)
  | .encEmitPayloadMore _ _ => (.add, plData s)
  | .encEmitPayloadLast _ _ => (.add, plData s)
  | _ => (.hold, 0x00#8)

end Sys2Proof.Machine
end

