-- ==== Sys2Proof/Machine/Checksum.lean ====
section
/-! DEFINITION. Format K: the steps of a stand-alone CK8 (40_checksum.md R92, R93, R95). -/

namespace Sys2Proof.Machine

/-- CK.CLR (R92): `ck_sum <- 0x00`; with `ck_en = 1` too it clears and does not add. -/
def execCkClr (_ckEn : Bool) (ckByte : Byte) (s : State) : Result := .next (s.setCk (ck8Step .clr s.ck ckByte))

/-- CK.ADD (R93): `ck_sum <- (ck_sum + ck_byte) mod 256`. -/
def execCkAdd (ckByte : Byte) (s : State) : Result := .next (s.setCk (ck8Step .add s.ck ckByte))

/-- CK.HOLD (R95): `ck_sum <- ck_sum`. -/
def execCkHold (ckByte : Byte) (s : State) : Result := .next (s.setCk (ck8Step .hold s.ck ckByte))

end Sys2Proof.Machine
end

