-- ==== Sys2Proof/Machine/FrameDecoder.lean ====
section
/-! DEFINITION. Format D: RESET, IDLE and the FEED rows (41_decoder.md R100 to R114), and FEED as one function (R115). -/

namespace Sys2Proof.Machine

/-- RESET (R100): applies in every state; a byte offered in the same step is dropped (D9). -/
def execReset (_inValid : Bool) (_stateCode : BitVec 3) (_inByte : Byte) (s : State) : Result := .next (resetDecoder s)

/-- IDLE (R101): "no register and no cell changes". -/
def execIdle (_stateCode : BitVec 3) (_inByte : Byte) (s : State) : Result := .next s

/-- FEED.START_OK (R102): `state <- AwaitingLength`. -/
def execFeedStartOk (s : State) : Result :=
  onlyIf (selected .feedStartOk s) (.next (s.setDec (s.dec.setState .awaitingLength)))

/-- FEED.START_BAD (R103): raises Malformed. -/
def execFeedStartBad (b : Byte) (s : State) : Result :=
  onlyIf (selected (.feedStartBad b) s) (.next (raiseError .malformed s))

/-- FEED.LEN_ZERO (R105): `declared_length <- 0x00; state <- AwaitingChecksum`. -/
def execFeedLenZero (s : State) : Result :=
  onlyIf (selected .feedLenZero s) (.next (s.setDec ((s.dec.setDeclaredLength 0x00#8).setState .awaitingChecksum)))

/-- FEED.LEN_NONZERO (R104): `declared_length <- in_byte; state <- AwaitingPayload`. -/
def execFeedLenNonzero (b : Byte) (s : State) : Result :=
  onlyIf (selected (.feedLenNonzero b) s) (.next (s.setDec ((s.dec.setDeclaredLength b).setState .awaitingPayload)))

/-- FEED.PAYLOAD_MORE (R106): append, "state stays AwaitingPayload". -/
def execFeedPayloadMore (b : Byte) (s : State) : Result :=
  onlyIf (selected (.feedPayloadMore b) s) (appendByte b .awaitingPayload s)

/-- FEED.PAYLOAD_LAST (R107): append, `state <- AwaitingChecksum`. -/
def execFeedPayloadLast (b : Byte) (s : State) : Result :=
  onlyIf (selected (.feedPayloadLast b) s) (appendByte b .awaitingChecksum s)

/-- FEED.CKSUM_OK (R108): `state <- AwaitingEnd`. -/
def execFeedCksumOk (b : Byte) (s : State) : Result :=
  onlyIf (selected (.feedCksumOk b) s) (.next (s.setDec (s.dec.setState .awaitingEnd)))

/-- FEED.CKSUM_BAD (R109): raises ChecksumMismatch. -/
def execFeedCksumBad (b : Byte) (s : State) : Result :=
  onlyIf (selected (.feedCksumBad b) s) (.next (raiseError .checksumMismatch s))

/-- FEED.END_OK (R110): `state <- Done`. -/
def execFeedEndOk (s : State) : Result := onlyIf (selected .feedEndOk s) (.next (s.setDec (s.dec.setState .done)))

/-- FEED.END_BAD (R111): raises Malformed. -/
def execFeedEndBad (b : Byte) (s : State) : Result :=
  onlyIf (selected (.feedEndBad b) s) (.next (raiseError .malformed s))

/-- FEED.DONE (R112): "nothing changes: no register, no buffer cell". -/
def execFeedDone (b : Byte) (s : State) : Result := onlyIf (selected (.feedDone b) s) (.next s)

/-- FEED.FAILED (R113): "nothing changes; in particular `fail_cause` keeps the cause of the first failure". -/
def execFeedFailed (b : Byte) (s : State) : Result := onlyIf (selected (.feedFailed b) s) (.next s)

/-- FEED.ILLSTATE (R114): "a model over 3-bit codes refuses it"; the register's type has no such value, so only a word given
whole carries the code (log 4). -/
def execFeedIllstate (_inByte : Byte) (_s : State) : Result := .refused .illegalStateCode

/-- FEED as one function (R115), for a decoder whose `write_cursor` has a cell. -/
def feed (b : Byte) (d : Decoder) : Decoder :=
  match d.state with
  | .awaitingStart =>
    if b = 0x02#8 then { d with state := .awaitingLength } else { d with state := .failed, failCause := false }
  | .awaitingLength =>
    { d with declaredLength := b, state := if 0 < b.toNat then .awaitingPayload else .awaitingChecksum }
  | .awaitingPayload =>
    { d with
      buffer := memWrite d.buffer d.writeCursor.toNat b
      checksumAcc := BitVec.ofNat 8 ((d.checksumAcc.toNat + b.toNat) % 256)
      writeCursor := d.writeCursor + 1
      state := if d.writeCursor.toNat + 1 = d.declaredLength.toNat then .awaitingChecksum else .awaitingPayload }
  | .awaitingChecksum =>
    if b = d.checksumAcc then { d with state := .awaitingEnd } else { d with state := .failed, failCause := true }
  | .awaitingEnd =>
    if b = 0x03#8 then { d with state := .done } else { d with state := .failed, failCause := false }
  | .done => d
  | .failed => d

end Sys2Proof.Machine
end

