-- ==== Sys2Proof/Machine/FrameEncoder.lean ====
section
/-! DEFINITION. Format E: the steps of the serializer (42_encoder.md R132 to R145). Every emitting row transfers the byte that `out_byte`
offers (R137). -/

namespace Sys2Proof.Machine

/-- ENC.RESET (R132): no byte is transferred, whatever `out_ready` is. -/
def execEncReset (_encStart _tooLarge _outReady : Bool) (_phaseCode : BitVec 3) (s : State) : Result :=
  .next (resetEncoder s)

/-- ENC.START_OK (R134): the length is latched, the encoder's CK8 cleared, `enc_err` cleared, `enc_phase <- EncStart`. -/
def execEncStartOk (y : Bool) (n : Byte) (s : State) : Result :=
  onlyIf (selected (.encStartOk y n) s)
    (.next (s.setEnc (((((s.enc.setLenR n).setCursor 0x00#8).setAcc ck8Clr).setErr false).setPhase .encStart)))

/-- ENC.START_TOOLARGE (R135): raises PayloadTooLarge; "no other register changes". -/
def execEncStartTooLarge (y : Bool) (n : EncLen) (s : State) : Result :=
  onlyIf (selected (.encStartTooLarge y n) s) (.next (raiseError .payloadTooLarge s))

/-- ENC.IDLE (R133): "nothing changes". -/
def execEncIdle (t y : Bool) (s : State) : Result := onlyIf (selected (.encIdle t y) s) (.next s)

/-- ENC.EMIT_START (R138): `Emit(0x02); enc_phase <- EncLength`. -/
def execEncEmitStart (st t : Bool) (s : State) : Result :=
  onlyIf (selected (.encEmitStart st t) s) (.next ((emit Config.START s).setEnc (s.enc.setPhase .encLength)))

/-- ENC.EMIT_LENGTH_NZ (R139): `Emit(enc_len_r); enc_phase <- EncPayload`. -/
def execEncEmitLengthNz (st t : Bool) (s : State) : Result :=
  onlyIf (selected (.encEmitLengthNz st t) s) (.next ((emit s.enc.lenR s).setEnc (s.enc.setPhase .encPayload)))

/-- ENC.EMIT_LENGTH_Z (R140): `Emit(0x00); enc_phase <- EncChecksum`. -/
def execEncEmitLengthZ (st t : Bool) (s : State) : Result :=
  onlyIf (selected (.encEmitLengthZ st t) s) (.next ((emit 0x00#8 s).setEnc (s.enc.setPhase .encChecksum)))

/-- ENC.EMIT_PAYLOAD_MORE (R141). -/
def execEncEmitPayloadMore (st t : Bool) (s : State) : Result :=
  onlyIf (selected (.encEmitPayloadMore st t) s) (.next (emitPayload .encPayload s))

/-- ENC.EMIT_PAYLOAD_LAST (R142). -/
def execEncEmitPayloadLast (st t : Bool) (s : State) : Result :=
  onlyIf (selected (.encEmitPayloadLast st t) s) (.next (emitPayload .encChecksum s))

/-- ENC.EMIT_CHECKSUM (R143): `Emit(enc_acc); enc_phase <- EncEnd`. -/
def execEncEmitChecksum (st t : Bool) (s : State) : Result :=
  onlyIf (selected (.encEmitChecksum st t) s) (.next ((emit s.enc.acc s).setEnc (s.enc.setPhase .encEnd)))

/-- ENC.EMIT_END (R144): `Emit(0x03); enc_phase <- EncIdle`; the other registers keep their values. -/
def execEncEmitEnd (st t : Bool) (s : State) : Result :=
  onlyIf (selected (.encEmitEnd st t) s) (.next ((emit Config.END s).setEnc (s.enc.setPhase .encIdle)))

/-- ENC.ILLPHASE (R145): "one over 3-bit codes refuses it"; only a word given whole carries the codes (log 4). -/
def execEncIllphase (_encStart _tooLarge _outReady _low : Bool) (_s : State) : Result := .refused .illegalPhaseCode

/-- ENC.STALL (R136): "nothing changes; the offered byte stays offered". -/
def execEncStall (st t : Bool) (p : EncPhase) (s : State) : Result := onlyIf (selected (.encStall st t p) s) (.next s)

end Sys2Proof.Machine
end

