-- ==== Sys2Proof/Machine/Functions.lean ====
section
/-! DEFINITION. Format function: the two pure functions ENCODE (42_encoder.md R130) and CKSUM8 (40_checksum.md R94). They have "no state"
(R131): a call changes no register, and its value goes to the caller's record (logs 7, 12). -/

namespace Sys2Proof.Machine

/-- The bytes of the frame of a payload: `[0x02, len(p)] ++ p ++ [CKSUM8(p), 0x03]` (R70, R130). -/
def frameBytes (p : List Byte) : List Byte :=
  [Config.START, BitVec.ofNat 8 p.length] ++ p ++ [cksum8Of p, Config.END]

/-- `ENCODE(p)` (R130). -/
def encodeFrame (p : List Byte) : EncodeResult :=
  if Config.MAX_PAYLOAD < p.length then .payloadTooLarge else .bytes (frameBytes p)

/-- ENCODE (R130). -/
def execEncode (p : List Byte) (s : State) : Result := .next (answer (.encoded (encodeFrame p)) s)

/-- CKSUM8 (R94). -/
def execCksum8 (l : List Byte) (s : State) : Result := .next (answer (.cksum (cksum8Of l)) s)

end Sys2Proof.Machine
end

