-- ==== Sys2Proof/Machine/Readout.lean ====
section
/-! DEFINITION. Format R: the reads of the decoder's outputs (41_decoder.md R116, R117). Neither changes a register or a cell; the answer goes
to the caller's record (log 7). -/

namespace Sys2Proof.Machine

/-- RESULT (R116): the verdict, and "With `Complete` goes the payload". -/
def execResult (s : State) : Result :=
  .next (answer (.result (verdict s.dec) (payloadLen s.dec) (deliveredPayload s.dec)) s)

/-- RDPAYLOAD (R117): `payload_len`, and `rd_data = BufRead(rd_addr)` inside the window; outside it `rd_data` is unspecified and
a free value is drawn (U2, log 10). -/
def execRdPayload (a : Byte) (s : State) : Result :=
  match rdData s.dec a with
  | some b => .next (answer (.rdPayload a (payloadLen s.dec) b) s)
  | none =>
    .next ((answer (.rdPayload a (payloadLen s.dec) (Config.unspecifiedRdData s.draws)) s).setDraws (s.draws + 1))

end Sys2Proof.Machine
end

