-- ==== Sys2Proof/Machine/Dispatch.lean ====
section
/-! DEFINITION. One arm per row of opcode_table.json. -/

namespace Sys2Proof.Machine

def exec (i : Instr) (s : State) : Host.Outcome State Fault Refusal :=
  match i with
  | .reset v c b => Sys2Proof.Machine.execReset v c b s
  | .idle c b => Sys2Proof.Machine.execIdle c b s
  | .feedStartOk => Sys2Proof.Machine.execFeedStartOk s
  | .feedStartBad b => Sys2Proof.Machine.execFeedStartBad b s
  | .feedLenZero => Sys2Proof.Machine.execFeedLenZero s
  | .feedLenNonzero b => Sys2Proof.Machine.execFeedLenNonzero b s
  | .feedPayloadMore b => Sys2Proof.Machine.execFeedPayloadMore b s
  | .feedPayloadLast b => Sys2Proof.Machine.execFeedPayloadLast b s
  | .feedCksumOk b => Sys2Proof.Machine.execFeedCksumOk b s
  | .feedCksumBad b => Sys2Proof.Machine.execFeedCksumBad b s
  | .feedEndOk => Sys2Proof.Machine.execFeedEndOk s
  | .feedEndBad b => Sys2Proof.Machine.execFeedEndBad b s
  | .feedDone b => Sys2Proof.Machine.execFeedDone b s
  | .feedFailed b => Sys2Proof.Machine.execFeedFailed b s
  | .feedIllstate b => Sys2Proof.Machine.execFeedIllstate b s
  | .result => Sys2Proof.Machine.execResult s
  | .rdPayload a => Sys2Proof.Machine.execRdPayload a s
  | .encReset st t y p => Sys2Proof.Machine.execEncReset st t y p s
  | .encStartOk y n => Sys2Proof.Machine.execEncStartOk y n s
  | .encStartTooLarge y n => Sys2Proof.Machine.execEncStartTooLarge y n s
  | .encIdle t y => Sys2Proof.Machine.execEncIdle t y s
  | .encEmitStart st t => Sys2Proof.Machine.execEncEmitStart st t s
  | .encEmitLengthNz st t => Sys2Proof.Machine.execEncEmitLengthNz st t s
  | .encEmitLengthZ st t => Sys2Proof.Machine.execEncEmitLengthZ st t s
  | .encEmitPayloadMore st t => Sys2Proof.Machine.execEncEmitPayloadMore st t s
  | .encEmitPayloadLast st t => Sys2Proof.Machine.execEncEmitPayloadLast st t s
  | .encEmitChecksum st t => Sys2Proof.Machine.execEncEmitChecksum st t s
  | .encEmitEnd st t => Sys2Proof.Machine.execEncEmitEnd st t s
  | .encIllphase st t y p => Sys2Proof.Machine.execEncIllphase st t y p s
  | .encStall st t p => Sys2Proof.Machine.execEncStall st t p s
  | .ckClr e b => Sys2Proof.Machine.execCkClr e b s
  | .ckAdd b => Sys2Proof.Machine.execCkAdd b s
  | .ckHold b => Sys2Proof.Machine.execCkHold b s
  | .encode p => Sys2Proof.Machine.execEncode p s
  | .cksum8 l => Sys2Proof.Machine.execCksum8 l s

end Sys2Proof.Machine
end

