-- ==== Sys2Proof/Machine/Fetch.lean ====
section
/-! DEFINITION. What the next step performs: the operations the environment's next input selects, decoded from words made of the pins and the
registers as they stand before the step (00_scope.md R8, R9; 30_encoding.md R74, R76 to R78). -/

namespace Sys2Proof.Machine

/-- Nothing driven to the decoder: IDLE (R83, CW = 0x000). -/
def DecPins.quiet : DecPins := { rst := false, inValid := false, inByte := 0x00#8 }

/-- Nothing driven to the encoder: ENC.WAIT (R83, ECW = 0b000). -/
def EncPins.quiet : EncPins := { rst := false, start := false, len := 0x0000#16, outReady := false }

/-- Nothing driven to the stand-alone CK8: CK.HOLD (R83, KW = 0x000). -/
def CkPins.quiet : CkPins := { clr := false, en := false, byte := 0x00#8 }

/-- The operations of one clock edge: one of the decoder, one of the encoder, one of the stand-alone CK8 (R9), each selected by
its own dispatch word. -/
def edgeOps (w : Wiring) (d : DecPins) (e : EncPins) (k : CkPins) (s : State) : Except DecodeError (List Instr) := do
  let i ← decode (.d (dispatchWordD (wiredPins w d e s) s.dec.state)) (selCtx s)
  let j ← decode (.e (dispatchWordE e s.enc.phase) e.len) (selCtx s)
  let l ← decode (.k (dispatchWordK k)) (selCtx s)
  return [i, j, l]

/-- The operations an input selects and the state they start from, less the input itself. With no input left, an edge with
nothing driven (log 1). -/
def fetch (s : State) : Except Refusal (List Instr × State) :=
  match s.inputs with
  | [] =>
    match edgeOps .driven DecPins.quiet EncPins.quiet CkPins.quiet s with
    | .ok is => .ok (is, s)
    | .error e => .error (.undecodable e)
  | .edge w d e k :: rest =>
    match edgeOps w d e k s with
    | .ok is => .ok (is, s.setInputs rest)
    | .error e => .error (.undecodable e)
  | .word w :: rest =>
    match decode w (selCtx s) with
    | .ok i => .ok ([i], s.setInputs rest)
    | .error e => .error (.undecodable e)
  | .present p :: rest =>
    if encBusy s then .error .payloadChanged else .ok ([], (s.setPayloadSrc (sourceOf p)).setInputs rest)

/-- Set the registers a whole dispatch word speaks of: the state or phase of its code bits where the row looks at them, and, where
rows share the word, the registers their extra conditions read, as `tableCtx` has them (log 2). -/
def alignRegisters (w : DispatchWord) (s : State) : State :=
  match w with
  | .d dw =>
    if dw.getLsbD 12 || !dw.getLsbD 11 then s
    else
      match DecState.ofCode (dw.extractLsb' 8 3) with
      | none => s
      | some .awaitingPayload =>
        s.setDec (((s.dec.setState .awaitingPayload).setWriteCursor tableCtx.writeCursor).setDeclaredLength
          tableCtx.declaredLength)
      | some .awaitingChecksum => s.setDec ((s.dec.setState .awaitingChecksum).setChecksumAcc tableCtx.checksumAcc)
      | some st => s.setDec (s.dec.setState st)
  | .e ew _ =>
    if ew.getLsbD 6 then s
    else
      match EncPhase.ofCode (ew.extractLsb' 0 3) with
      | none => s
      | some .encLength =>
        if ew.getLsbD 3 then s.setEnc ((s.enc.setPhase .encLength).setLenR tableCtx.encLenR)
        else s.setEnc (s.enc.setPhase .encLength)
      | some .encPayload =>
        if ew.getLsbD 3 then
          s.setEnc (((s.enc.setPhase .encPayload).setLenR tableCtx.encLenR).setCursor tableCtx.encCursor)
        else s.setEnc (s.enc.setPhase .encPayload)
      | some ph => s.setEnc (s.enc.setPhase ph)
  | .k _ | .result | .rdPayload _ | .encode _ | .cksum8 _ => s

/-- Put a table word where the next step takes its operation from: first in `inputs`, with the registers it speaks of set. A value
that is no word changes nothing. -/
def placeFetchWord (s : State) (nbits w : Nat) : State :=
  match tableWord nbits w with
  | none => s
  | some dw => (alignRegisters dw s).setInputs (.word dw :: s.inputs)

end Sys2Proof.Machine
end

