-- ==== Sys2Proof/Machine/Run.lean ====
section
/-! DEFINITION. One step of the machine: fetch, then every selected operation in turn. The blocks' operations write disjoint registers (R9:
"the two blocks do not interact"), and which rows they are was settled before the first of them wrote, so running them one after
the other is the simultaneous step of R8 (log 15). -/

namespace Sys2Proof.Machine

/-- Run the operations of one step. -/
def runOps : List Instr → State → Result
  | [], s => .next s
  | i :: is, s =>
    match exec i s with
    | .next t => runOps is t
    | .fault f => .fault f
    | .refused r => .refused r

/-- One step. -/
def cycle (s : State) : Result :=
  match fetch s with
  | .ok (is, t) => runOps is t
  | .error r => .refused r

end Sys2Proof.Machine
end

