-- ==== Sys2Proof/Machine/Programs.lean ====
section
/-! DEFINITION. The line notation and the pseudo-operations (30_encoding.md R83, R84) as lists of inputs. -/

namespace Sys2Proof.Machine

/-! ## Pins of a line (R83) -/

def DecPins.reset : DecPins := { DecPins.quiet with rst := true }
def DecPins.feed (b : Byte) : DecPins := { DecPins.quiet with inValid := true, inByte := b }
def EncPins.reset : EncPins := { EncPins.quiet with rst := true }
def EncPins.startOf (n : EncLen) : EncPins := { EncPins.quiet with start := true, len := n }
def EncPins.ready : EncPins := { EncPins.quiet with outReady := true }

/-! ## One line, one step (R83); the other blocks have nothing driven -/

def decLine (p : DecPins) : Input := .edge .driven p EncPins.quiet CkPins.quiet
def encLine (p : EncPins) : Input := .edge .driven DecPins.quiet p CkPins.quiet
def ckLine (p : CkPins) : Input := .edge .driven DecPins.quiet EncPins.quiet p

/-- `RESET`. -/
def lineReset : Input := decLine DecPins.reset
/-- `FEED 0xNN`. -/
def lineFeed (b : Byte) : Input := decLine (DecPins.feed b)
/-- `IDLE`. -/
def lineIdle : Input := decLine DecPins.quiet
/-- `RESULT`, "no step". -/
def lineResult : Input := .word .result
/-- `ENC.RESET`. -/
def lineEncReset : Input := encLine EncPins.reset
/-- `ENC.START n`. -/
def lineEncStart (n : EncLen) : Input := encLine (EncPins.startOf n)
/-- `ENC.STEP`. -/
def lineEncStep : Input := encLine EncPins.ready
/-- `ENC.WAIT`. -/
def lineEncWait : Input := encLine EncPins.quiet
/-- `CK.CLR`. -/
def lineCkClr : Input := ckLine { CkPins.quiet with clr := true }
/-- `CK.ADD 0xNN`. -/
def lineCkAdd (b : Byte) : Input := ckLine { CkPins.quiet with en := true, byte := b }
/-- `CK.HOLD`. -/
def lineCkHold : Input := ckLine CkPins.quiet

/-! ## Pseudo-operations (R84) -/

/-- `FEEDALL [b0, ..., bk]`. -/
def feedAll (l : List Byte) : List Input := l.map lineFeed

/-- `DECODE l`: "`RESET`; `FEEDALL l`; `RESULT`". -/
def decodeProgram (l : List Byte) : List Input := lineReset :: (feedAll l ++ [lineResult])

/-- `len(p)` on the 16-bit port `enc_len`. The port cannot hold a length above 65535, and the spec does not say what
`ENC.START len(p)` is there; DESIGN CHOICE (log 20): 65535, the largest value of the port, so that the request is refused as
PayloadTooLarge, as R130 says of every payload longer than 255 bytes. -/
def startLength (p : List Byte) : EncLen := BitVec.ofNat 16 (min p.length 65535)

/-- `ENCODE p`: the payload presented, `ENC.START len(p)` (log 20 above 65535), then `ENC.STEP` `len(p) + 4` times. -/
def encodeProgram (p : List Byte) : List Input :=
  .present p :: lineEncStart (startLength p) :: List.replicate (p.length + 4) lineEncStep

/-- A step of the encoder whose output is wired to the decoder's byte port. -/
def loopStep : Input := .edge .loopback DecPins.quiet EncPins.ready CkPins.quiet

/-- `LOOPBACK p`: a freshly reset decoder is fed each emitted byte "in the step it is emitted"; the length as in
`ENCODE p` (log 20). -/
def loopbackProgram (p : List Byte) : List Input :=
  .present p :: lineReset :: lineEncStart (startLength p) ::
    List.replicate (p.length + 4) loopStep

end Sys2Proof.Machine
end

