-- ==== Sys2Proof/Machine/System.lean ====
section
/-! DEFINITION. Several contexts: "A system with N streams instantiates N decoders; each has its own copy of every register ... and its own
buffer" (10_state.md R39, 60_exceptions.md R166). A system is a list of cores; a context steps alone (log 17). -/

namespace Sys2Proof.Machine

/-- One step of context `n` of a system; a system with no such context does not change. -/
def stepContext : Nat → List State → Host.Outcome (List State) Fault Refusal
  | _, [] => .next []
  | 0, s :: sys =>
    match step s with
    | .next t => .next (t :: sys)
    | .fault f => .fault f
    | .refused r => .refused r
  | n + 1, s :: sys =>
    match stepContext n sys with
    | .next ts => .next (s :: ts)
    | .fault f => .fault f
    | .refused r => .refused r

end Sys2Proof.Machine
end

