-- ==== Sys2Proof/Safety.lean ====
section
/-! DEFINITION. What every reachable state keeps: the invariants of 10_state.md R30 and their like for the encoder, and what counts as a
completed step. -/

namespace Sys2Proof.Safety

open Sys2Proof.Machine

/-- INV1 (R30): `checksum_acc = sum8([BufRead(0), ..., BufRead(write_cursor - 1)])`. -/
def Inv1 (d : Decoder) : Prop := d.checksumAcc = sum8 (logicalContents d)

/-- INV2 (R30). -/
def Inv2 (d : Decoder) : Prop :=
  d.state = .awaitingStart ∨ d.state = .awaitingLength →
    d.writeCursor = 0x00#8 ∧ d.checksumAcc = 0x00#8 ∧ d.declaredLength = 0x00#8

/-- INV3 (R30). -/
def Inv3 (d : Decoder) : Prop :=
  d.state = .awaitingPayload → 1 ≤ d.declaredLength.toNat ∧ d.writeCursor.toNat < d.declaredLength.toNat

/-- INV4 (R30). -/
def Inv4 (d : Decoder) : Prop :=
  d.state = .awaitingChecksum ∨ d.state = .awaitingEnd ∨ d.state = .done ∨ d.state = .failed →
    d.writeCursor = d.declaredLength

/-- INV5 (R30). -/
def Inv5 (d : Decoder) : Prop := d.failCause = true → d.state = .failed

/-- INV6 (R30): every cell ever written is one of the 255 the buffer has, and the memory is in canonical form. -/
def Inv6 (d : Decoder) : Prop := d.writeCursor.toNat ≤ 255 ∧ Memory.wf Config.BUF_CAP d.buffer

/-- INV1 to INV6 of R30. -/
structure DecoderInv (d : Decoder) : Prop where
  inv1 : Inv1 d
  inv2 : Inv2 d
  inv3 : Inv3 d
  inv4 : Inv4 d
  inv5 : Inv5 d
  inv6 : Inv6 d

/-- The bytes the encoder has taken from the payload source in this ENCODE. -/
def takenBytes (s : State) : List Byte := (List.range s.enc.cursor.toNat).map (payloadByte s.payloadSrc)

/-- What the serializer's steps keep (R134 to R146): before the payload the cursor is 0; in the payload phase "`enc_cursor + 1 >
enc_len_r` cannot occur" (R142); after it the cursor is the length; an ENCODE in progress has no error flag (R134, R135); the
accumulator sums the bytes taken (R141, R94). -/
structure EncoderInv (s : State) : Prop where
  before : s.enc.phase = .encStart ∨ s.enc.phase = .encLength → s.enc.cursor = 0x00#8
  inside : s.enc.phase = .encPayload → s.enc.cursor.toNat < s.enc.lenR.toNat
  after : s.enc.phase = .encChecksum ∨ s.enc.phase = .encEnd → s.enc.cursor = s.enc.lenR
  errIdle : s.enc.err = true → s.enc.phase = .encIdle
  accSum : s.enc.phase ≠ .encIdle → s.enc.acc = sum8 (takenBytes s)
  source : Memory.wf Config.SRC_CAP s.payloadSrc

/-- The invariant of the machine. -/
structure Inv (s : State) : Prop where
  decoder : DecoderInv s.dec
  encoder : EncoderInv s

/-- `n` steps of the machine. -/
def runSteps (n : Nat) (s : State) : Result := Host.Core.run Sys2Proof.core n s

/-- The step completes: it answers a next state. -/
def Completes (r : Result) : Prop := ∃ t, r = .next t

end Sys2Proof.Safety
end

