-- ==== Sys2Proof/Certificates/Slice0/Obligations.lean ====
section
/-! DEFINITION. The statements for the provers. Each docstring names the rule of spec/ it formalises. -/

open Sys2Proof Sys2Proof.Machine Sys2Proof.Safety

/-! ## The checksum generator -/

/-- R92. -/
def Obligations.CkClrClearsTheSum : Prop :=
  ∀ (en : Bool) (b : Byte) (c : SelCtx) (s : State),
    decode (.k (0b1#1 ++ bit en ++ b)) c = .ok (.ckClr en b) ∧
    exec (.ckClr en b) s = .next { s with ck := 0x00#8 }

/-- R93. -/
def Obligations.CkAddSumsModulo256 : Prop :=
  ∀ (b : Byte) (c : SelCtx) (s : State),
    decode (.k (0b01#2 ++ b)) c = .ok (.ckAdd b) ∧
    exec (.ckAdd b) s = .next { s with ck := BitVec.ofNat 8 ((s.ck.toNat + b.toNat) % 256) }

/-- R95. -/
def Obligations.CkHoldKeepsTheSum : Prop :=
  ∀ (b : Byte) (c : SelCtx) (s : State),
    decode (.k (0b00#2 ++ b)) c = .ok (.ckHold b) ∧ exec (.ckHold b) s = .next s

/-- R94: the function, its value on the empty list, its computation by the unit, its blindness to order, its sensitivity to one
byte, and its domain in a frame. -/
def Obligations.ChecksumOfAList : Prop :=
  (∀ l : List Byte, (cksum8Of l).toNat = (l.map BitVec.toNat).sum % 256) ∧
  cksum8Of [] = 0x00#8 ∧
  (∀ (l : List Byte) (en : Bool) (b : Byte) (s : State),
    runOps (.ckClr en b :: l.map Instr.ckAdd) s = .next { s with ck := cksum8Of l }) ∧
  (∀ l k : List Byte, l.Perm k → cksum8Of l = cksum8Of k) ∧
  (∀ (l : List Byte) (i : Nat) (b : Byte), i < l.length → l[i]? ≠ some b → cksum8Of (l.set i b) ≠ cksum8Of l) ∧
  (∀ p : List Byte, p.length ≤ 255 → (frameBytes p)[p.length + 2]? = some (cksum8Of p))

/-- R90: what every operation commands of the three CK8 instances: the decoder's, the encoder's, and a stand-alone one, which its
command word drives. -/
def Obligations.OperationsCommandTheirChecksumUnit : Prop :=
  ∀ (i : Instr) (s t : State), exec i s = .next t →
    t.dec.checksumAcc = ck8Step (decoderCkCommand i).1 s.dec.checksumAcc (decoderCkCommand i).2 ∧
    t.enc.acc = ck8Step (encoderCkCommand s i).1 s.enc.acc (encoderCkCommand s i).2 ∧
    (i.format ≠ .k → t.ck = s.ck) ∧
    (∀ (kw : BitVec 10) (c : SelCtx), decode (.k kw) c = .ok i →
      t.ck = ck8Step (if kw.getLsbD 9 then .clr else if kw.getLsbD 8 then .add else .hold) s.ck (kw.extractLsb' 0 8))

/-! ## The decoder -/

/-- R100: the reset state from every state, cells kept, logical contents empty, the offered byte dropped; the reset state is
unchanged by it. -/
def Obligations.ResetStartsAfresh : Prop :=
  ∀ (v : Bool) (code : BitVec 3) (b : Byte) (c : SelCtx) (s : State),
    decode (.d (0b1#1 ++ bit v ++ code ++ b)) c = .ok (.reset v code b) ∧
    ∃ t, exec (.reset v code b) s = .next t ∧
      t = { s with
            dec := { state := .awaitingStart, declaredLength := 0x00#8, writeCursor := 0x00#8, checksumAcc := 0x00#8,
                     failCause := false, buffer := s.dec.buffer } } ∧
      verdict t.dec = .pending ∧ logicalContents t.dec = [] ∧
      exec (.reset v code b) t = .next t

/-- R101: nothing changes, in any state, any number of times. -/
def Obligations.IdleChangesNothing : Prop :=
  ∀ (code : BitVec 3) (b : Byte) (c : SelCtx) (s : State) (n : Nat),
    decode (.d (0b00#2 ++ code ++ b)) c = .ok (.idle code b) ∧
    exec (.idle code b) s = .next s ∧ runOps (List.replicate n (.idle code b)) s = .next s

/-- R102, R103. -/
def Obligations.StartByteDecides : Prop :=
  ∀ (b : Byte) (c : SelCtx) (s : State), s.dec.state = .awaitingStart →
    (decode (.d 0x0802#13) c = .ok .feedStartOk ∧
      ∃ t, exec .feedStartOk s = .next t ∧ t = { s with dec := { s.dec with state := .awaitingLength } } ∧
        verdict t.dec = .pending) ∧
    (b ≠ 0x02#8 → decode (.d (0b01000#5 ++ b)) c = .ok (.feedStartBad b) ∧
      ∃ t, exec (.feedStartBad b) s = .next t ∧
        t = { s with dec := { s.dec with state := .failed, failCause := false } } ∧ verdict t.dec = .malformed)

/-- R104, R105. -/
def Obligations.LengthByteIsLatched : Prop :=
  ∀ (b : Byte) (c : SelCtx) (s : State), s.dec.state = .awaitingLength →
    (decode (.d 0x0900#13) c = .ok .feedLenZero ∧
      ∃ t, exec .feedLenZero s = .next t ∧
        t = { s with dec := { s.dec with declaredLength := 0x00#8, state := .awaitingChecksum } } ∧
        verdict t.dec = .pending) ∧
    (b ≠ 0x00#8 → decode (.d (0b01001#5 ++ b)) c = .ok (.feedLenNonzero b) ∧
      ∃ t, exec (.feedLenNonzero b) s = .next t ∧
        t = { s with dec := { s.dec with declaredLength := b, state := .awaitingPayload } } ∧
        verdict t.dec = .pending)

/-- R106: the byte is stored at the cursor and summed, the cursor goes up without wrapping, the state stays. -/
def Obligations.PayloadByteIsAppended : Prop :=
  ∀ (b : Byte) (s : State), s.dec.state = .awaitingPayload →
    s.dec.writeCursor.toNat + 1 < s.dec.declaredLength.toNat →
    decode (.d (0b01010#5 ++ b)) (selCtx s) = .ok (.feedPayloadMore b) ∧
    ∃ t, exec (.feedPayloadMore b) s = .next t ∧
      t = { s with
            dec := { s.dec with
                     buffer := t.dec.buffer, checksumAcc := BitVec.ofNat 8 ((s.dec.checksumAcc.toNat + b.toNat) % 256),
                     writeCursor := t.dec.writeCursor } } ∧
      t.dec.writeCursor.toNat = s.dec.writeCursor.toNat + 1 ∧
      (∀ a, bufRead t.dec a = if a = s.dec.writeCursor.toNat then b else bufRead s.dec a) ∧
      verdict t.dec = .pending

/-- R107: as R106, and the state goes to AwaitingChecksum with the cursor equal to the declared length. -/
def Obligations.LastPayloadByteEndsTheField : Prop :=
  ∀ (b : Byte) (s : State), s.dec.state = .awaitingPayload →
    s.dec.writeCursor.toNat + 1 = s.dec.declaredLength.toNat →
    decode (.d (0b01010#5 ++ b)) (selCtx s) = .ok (.feedPayloadLast b) ∧
    ∃ t, exec (.feedPayloadLast b) s = .next t ∧
      t = { s with
            dec := { s.dec with
                     buffer := t.dec.buffer, checksumAcc := BitVec.ofNat 8 ((s.dec.checksumAcc.toNat + b.toNat) % 256),
                     writeCursor := s.dec.declaredLength, state := .awaitingChecksum } } ∧
      t.dec.writeCursor.toNat = s.dec.writeCursor.toNat + 1 ∧
      (∀ a, bufRead t.dec a = if a = s.dec.writeCursor.toNat then b else bufRead s.dec a) ∧
      verdict t.dec = .pending

/-- R108, R109. -/
def Obligations.ChecksumByteDecides : Prop :=
  ∀ (b : Byte) (s : State), s.dec.state = .awaitingChecksum →
    (b = s.dec.checksumAcc → decode (.d (0b01011#5 ++ b)) (selCtx s) = .ok (.feedCksumOk b) ∧
      ∃ t, exec (.feedCksumOk b) s = .next t ∧ t = { s with dec := { s.dec with state := .awaitingEnd } } ∧
        verdict t.dec = .pending) ∧
    (b ≠ s.dec.checksumAcc → decode (.d (0b01011#5 ++ b)) (selCtx s) = .ok (.feedCksumBad b) ∧
      ∃ t, exec (.feedCksumBad b) s = .next t ∧
        t = { s with dec := { s.dec with state := .failed, failCause := true } } ∧ verdict t.dec = .checksumMismatch ∧
        deliveredPayload t.dec = [])

/-- R110, R111. -/
def Obligations.EndByteDecides : Prop :=
  ∀ (b : Byte) (c : SelCtx) (s : State), s.dec.state = .awaitingEnd →
    (decode (.d 0x0C03#13) c = .ok .feedEndOk ∧
      ∃ t, exec .feedEndOk s = .next t ∧ t = { s with dec := { s.dec with state := .done } } ∧
        verdict t.dec = .complete ∧ payloadLen t.dec = s.dec.declaredLength ∧
        ∀ a : Byte, a.toNat < s.dec.declaredLength.toNat → rdData t.dec a = some (bufRead s.dec a.toNat)) ∧
    (b ≠ 0x03#8 → decode (.d (0b01100#5 ++ b)) c = .ok (.feedEndBad b) ∧
      ∃ t, exec (.feedEndBad b) s = .next t ∧
        t = { s with dec := { s.dec with state := .failed, failCause := false } } ∧ verdict t.dec = .malformed)

/-- R112, R113. -/
def Obligations.TerminalStatesAbsorbEveryByte : Prop :=
  ∀ (b : Byte) (c : SelCtx) (s : State),
    (decode (.d (0b01101#5 ++ b)) c = .ok (.feedDone b) ∧
      (s.dec.state = .done → exec (.feedDone b) s = .next s ∧ verdict s.dec = .complete)) ∧
    (decode (.d (0b01110#5 ++ b)) c = .ok (.feedFailed b) ∧
      (s.dec.state = .failed → exec (.feedFailed b) s = .next s ∧
        verdict s.dec = if s.dec.failCause then .checksumMismatch else .malformed))

/-- R114, R145: no state and no phase has the illegal codes, so no rule writes them; forced on a word, they are refused, in every
state. -/
def Obligations.IllegalCodesAreRefused : Prop :=
  (∀ st : DecState, st.code ≠ 0b111#3) ∧ (∀ ph : EncPhase, ph.code ≠ 0b110#3 ∧ ph.code ≠ 0b111#3) ∧
  (∀ (b : Byte) (c : SelCtx) (s : State),
    decode (.d (0b01111#5 ++ b)) c = .ok (.feedIllstate b) ∧
    exec (.feedIllstate b) s = .refused .illegalStateCode) ∧
  (∀ (st t y l : Bool) (c : SelCtx) (s : State),
    decode (.e (0b0#1 ++ bit st ++ bit t ++ bit y ++ 0b11#2 ++ bit l) (canonicalEncLen t)) c =
      .ok (.encIllphase st t y l) ∧
    exec (.encIllphase st t y l) s = .refused .illegalPhaseCode)

/-- R31: the verdict output by state and cause, with its codes; Pending after RESET and at reset. -/
def Obligations.VerdictFollowsStateAndCause : Prop :=
  (∀ d : Decoder,
    (d.state ≠ .done → d.state ≠ .failed → verdict d = .pending ∧ (verdict d).code = 0b00#2) ∧
    (d.state = .done → verdict d = .complete ∧ (verdict d).code = 0b01#2) ∧
    (d.state = .failed → d.failCause = true → verdict d = .checksumMismatch ∧ (verdict d).code = 0b10#2) ∧
    (d.state = .failed → d.failCause = false → verdict d = .malformed ∧ (verdict d).code = 0b11#2)) ∧
  (∀ (v : Bool) (code : BitVec 3) (b : Byte) (s t : State), exec (.reset v code b) s = .next t →
    (verdict t.dec).code = 0b00#2) ∧
  (verdict State.reset.dec).code = 0b00#2

/-- R53: the window (outside it `rd_data` has no value: log 11, one of the treatments U2 allows), the delivered sequence, that a
read may be repeated until the next RESET, and that it has no side effect. -/
def Obligations.ReadPortInsideItsWindow : Prop :=
  (∀ (d : Decoder) (a : Byte), rdData d a =
    if d.state = .done ∧ a.toNat < d.declaredLength.toNat then some (bufRead d a.toNat) else none) ∧
  (∀ d : Decoder, d.state = .done →
    deliveredPayload d = (List.range d.declaredLength.toNat).map (bufRead d)) ∧
  (∀ (i : Instr) (s t : State) (a : Byte), s.dec.state = .done → (∀ v c b, i ≠ .reset v c b) → exec i s = .next t →
    rdData t.dec a = rdData s.dec a) ∧
  (∀ (a : Byte) (s t : State), exec (.rdPayload a) s = .next t →
    t.dec = s.dec ∧ t.enc = s.enc ∧ t.ck = s.ck ∧ t.payloadSrc = s.payloadSrc ∧ t.wire = s.wire ∧ t.inputs = s.inputs)

/-- MODEL's record of answers (log 7, log 10, log 12): RESULT, RDPAYLOAD, ENCODE and CKSUM8 complete in every state, change no
register and no cell, and answer the outputs of R116 and R117 and the values of R130 and R94; outside the window some byte
is answered. -/
def Obligations.ReadingOperationsAnswer : Prop :=
  ∀ s : State,
    exec .result s =
      .next { s with reads := s.reads ++ [.result (verdict s.dec) s.dec.declaredLength (deliveredPayload s.dec)] } ∧
    (∀ a b : Byte, rdData s.dec a = some b →
      exec (.rdPayload a) s = .next { s with reads := s.reads ++ [.rdPayload a s.dec.declaredLength b] }) ∧
    (∀ a : Byte, rdData s.dec a = none →
      ∃ (b : Byte) (n : Nat), exec (.rdPayload a) s =
        .next { s with reads := s.reads ++ [.rdPayload a s.dec.declaredLength b], draws := n }) ∧
    (∀ p, exec (.encode p) s = .next { s with reads := s.reads ++ [.encoded (encodeFrame p)] }) ∧
    (∀ l, exec (.cksum8 l) s = .next { s with reads := s.reads ++ [.cksum (cksum8Of l)] })

/-- R115: one FEED step, whatever the encoder is doing, is the function `feed`, and consumes exactly its one byte. INV3 (R30) rules
out the states with `write_cursor + 1 > declared_length` in AwaitingPayload, which no run reaches. -/
def Obligations.FeedStepIsOneFunction : Prop :=
  ∀ (s : State) (b : Byte) (rest : List Input), Inv3 s.dec →
    step { s with inputs := lineFeed b :: rest } = .next { s with dec := feed b s.dec, inputs := rest }

/-- R75, R85: the next state of a FEED step is the matrix entry of its state and input class. -/
def Obligations.FeedFollowsTheClassMatrix : Prop :=
  ∀ (s t : State) (b : Byte) (rest : List Input), Inv3 s.dec →
    step { s with inputs := lineFeed b :: rest } = .next t →
    nextState s.dec.state (inputClass s.dec.state b) (b == 0x00#8)
      (decide (s.dec.writeCursor.toNat + 1 = s.dec.declaredLength.toNat)) (b == s.dec.checksumAcc) = some t.dec.state

/-! ## The encoder -/

/-- R132: the encoder cleared and no byte transferred. -/
def Obligations.EncResetClearsTheEncoder : Prop :=
  ∀ (st t y : Bool) (code : BitVec 3) (c : SelCtx) (s : State),
    decode (.e (0b1#1 ++ bit st ++ bit t ++ bit y ++ code) (canonicalEncLen t)) c = .ok (.encReset st t y code) ∧
    ∃ u, exec (.encReset st t y code) s = .next u ∧
      u = { s with enc := { phase := .encIdle, lenR := 0x00#8, cursor := 0x00#8, acc := 0x00#8, err := false } } ∧
      outValid u = false ∧ encErr u = false

/-- R134. -/
def Obligations.EncStartLatchesTheLength : Prop :=
  ∀ (y : Bool) (n : Byte) (c : SelCtx) (s : State),
    decode (.e (0b010#3 ++ bit y ++ 0b000#3) (n.setWidth 16)) c = .ok (.encStartOk y n) ∧
    (s.enc.phase = .encIdle → ∃ u, exec (.encStartOk y n) s = .next u ∧
      u = { s with enc := { phase := .encStart, lenR := n, cursor := 0x00#8, acc := 0x00#8, err := false } } ∧
      outValid u = true)

/-- R135, R162: from 256, "the smallest refused value", up; the flag stays through ENC.IDLE, blocks nothing, and is cleared by the
next ENC.START_OK, accepted at once, or ENC.RESET. -/
def Obligations.EncStartRefusesLongPayloads : Prop :=
  ∀ (y : Bool) (n : BitVec 16) (c : SelCtx) (s : State), 255 < n.toNat →
    decode (.e (0b011#3 ++ bit y ++ 0b000#3) n) c = .ok (.encStartTooLarge y n) ∧
    (s.enc.phase = .encIdle → ∃ u, exec (.encStartTooLarge y n) s = .next u ∧
      u = { s with enc := { s.enc with err := true } } ∧ encErr u = true ∧ outValid u = false ∧
      (∀ t r, exec (.encIdle t r) u = .next u) ∧
      (∀ r m, ∃ v, exec (.encStartOk r m) u = .next v ∧ encErr v = false ∧ v.enc.phase = .encStart) ∧
      (∀ st t r code, ∃ v, exec (.encReset st t r code) u = .next v ∧ encErr v = false))

/-- R133, R136. -/
def Obligations.EncWaitsWithoutChange : Prop :=
  (∀ (t y : Bool) (c : SelCtx) (s : State),
    decode (.e (0b00#2 ++ bit t ++ bit y ++ 0b000#3) (canonicalEncLen t)) c = .ok (.encIdle t y) ∧
    (s.enc.phase = .encIdle → exec (.encIdle t y) s = .next s)) ∧
  (∀ (st t : Bool) (p : EncPhase) (c : SelCtx) (s : State), p ≠ .encIdle →
    decode (.e (0b0#1 ++ bit st ++ bit t ++ 0b0#1 ++ p.code) (canonicalEncLen t)) c = .ok (.encStall st t p) ∧
    (s.enc.phase = p → exec (.encStall st t p) s = .next s))

/-- R138, R139, R140. -/
def Obligations.EncEmitsStartAndLength : Prop :=
  ∀ (st t : Bool) (s : State),
    (decode (.e (0b0#1 ++ bit st ++ bit t ++ 0b1001#4) (canonicalEncLen t)) (selCtx s) = .ok (.encEmitStart st t) ∧
      (s.enc.phase = .encStart → ∃ u, exec (.encEmitStart st t) s = .next u ∧
        u = { s with wire := s.wire ++ [⟨0x02#8, false⟩], enc := { s.enc with phase := .encLength } } ∧
        outValid u = true)) ∧
    (s.enc.lenR ≠ 0x00#8 →
      decode (.e (0b0#1 ++ bit st ++ bit t ++ 0b1010#4) (canonicalEncLen t)) (selCtx s) =
        .ok (.encEmitLengthNz st t) ∧
      (s.enc.phase = .encLength → ∃ u, exec (.encEmitLengthNz st t) s = .next u ∧
        u = { s with wire := s.wire ++ [⟨s.enc.lenR, false⟩], enc := { s.enc with phase := .encPayload } } ∧
        outValid u = true)) ∧
    (s.enc.lenR = 0x00#8 →
      decode (.e (0b0#1 ++ bit st ++ bit t ++ 0b1010#4) (canonicalEncLen t)) (selCtx s) =
        .ok (.encEmitLengthZ st t) ∧
      (s.enc.phase = .encLength → ∃ u, exec (.encEmitLengthZ st t) s = .next u ∧
        u = { s with wire := s.wire ++ [⟨0x00#8, false⟩], enc := { s.enc with phase := .encChecksum } } ∧
        outValid u = true))

/-- R141, R142: the byte of the source at the cursor is transferred and summed, and the cursor goes up without wrapping. -/
def Obligations.EncEmitsPayloadBytes : Prop :=
  ∀ (st t : Bool) (s : State),
    (s.enc.cursor.toNat + 1 < s.enc.lenR.toNat →
      decode (.e (0b0#1 ++ bit st ++ bit t ++ 0b1011#4) (canonicalEncLen t)) (selCtx s) =
        .ok (.encEmitPayloadMore st t) ∧
      (s.enc.phase = .encPayload → ∃ u, exec (.encEmitPayloadMore st t) s = .next u ∧
        u = { s with
              wire := s.wire ++ [⟨payloadByte s.payloadSrc s.enc.cursor.toNat, false⟩]
              enc := { s.enc with
                       acc := BitVec.ofNat 8
                         ((s.enc.acc.toNat + (payloadByte s.payloadSrc s.enc.cursor.toNat).toNat) % 256)
                       cursor := u.enc.cursor } } ∧
        u.enc.cursor.toNat = s.enc.cursor.toNat + 1 ∧ outValid u = true)) ∧
    (s.enc.cursor.toNat + 1 = s.enc.lenR.toNat →
      decode (.e (0b0#1 ++ bit st ++ bit t ++ 0b1011#4) (canonicalEncLen t)) (selCtx s) =
        .ok (.encEmitPayloadLast st t) ∧
      (s.enc.phase = .encPayload → ∃ u, exec (.encEmitPayloadLast st t) s = .next u ∧
        u = { s with
              wire := s.wire ++ [⟨payloadByte s.payloadSrc s.enc.cursor.toNat, false⟩]
              enc := { s.enc with
                       acc := BitVec.ofNat 8
                         ((s.enc.acc.toNat + (payloadByte s.payloadSrc s.enc.cursor.toNat).toNat) % 256)
                       cursor := s.enc.lenR
                       phase := .encChecksum } } ∧
        u.enc.cursor.toNat = s.enc.cursor.toNat + 1 ∧ outValid u = true))

/-- R143, R144. -/
def Obligations.EncEmitsChecksumAndEnd : Prop :=
  ∀ (st t : Bool) (c : SelCtx) (s : State),
    (decode (.e (0b0#1 ++ bit st ++ bit t ++ 0b1100#4) (canonicalEncLen t)) c = .ok (.encEmitChecksum st t) ∧
      (s.enc.phase = .encChecksum → ∃ u, exec (.encEmitChecksum st t) s = .next u ∧
        u = { s with wire := s.wire ++ [⟨s.enc.acc, false⟩], enc := { s.enc with phase := .encEnd } } ∧
        outValid u = true ∧ outLast u = true)) ∧
    (decode (.e (0b0#1 ++ bit st ++ bit t ++ 0b1101#4) (canonicalEncLen t)) c = .ok (.encEmitEnd st t) ∧
      (s.enc.phase = .encEnd → ∃ u, exec (.encEmitEnd st t) s = .next u ∧
        u = { s with wire := s.wire ++ [⟨0x03#8, true⟩], enc := { s.enc with phase := .encIdle } } ∧
        outValid u = false ∧ outLast u = false))

/-- R137: the outputs by phase (`out_byte` has no value while idle: log 11), and when a clock edge transfers a byte; with
`enc_rst = 1` none is, as R132 says, so in LOOPBACK none is fed and the decoder keeps the beginning it has (R192, D30, log 14). -/
def Obligations.OutputsAndTransfersFollowThePhase : Prop :=
  (∀ s : State,
    outValid s = (s.enc.phase != .encIdle) ∧ encBusy s = outValid s ∧ outLast s = (s.enc.phase == .encEnd) ∧
    plAddr s = s.enc.cursor ∧
    (s.enc.phase = .encStart → outByte s = some 0x02#8) ∧ (s.enc.phase = .encLength → outByte s = some s.enc.lenR) ∧
    (s.enc.phase = .encPayload → outByte s = some (payloadByte s.payloadSrc s.enc.cursor.toNat)) ∧
    (s.enc.phase = .encChecksum → outByte s = some s.enc.acc) ∧ (s.enc.phase = .encEnd → outByte s = some 0x03#8) ∧
    (s.enc.phase = .encIdle → outByte s = none)) ∧
  (∀ (s t : State) (w : Wiring) (d : DecPins) (e : EncPins) (k : CkPins) (rest : List Input),
    step { s with inputs := .edge w d e k :: rest } = .next t →
    (e.rst = true → t.wire = s.wire) ∧
    (e.rst = false → outValid s = true ∧ e.outReady = true →
      ∃ b, outByte s = some b ∧ t.wire = s.wire ++ [⟨b, outLast s⟩]) ∧
    (e.rst = false → ¬(outValid s = true ∧ e.outReady = true) → t.wire = s.wire ∧
      (outValid s = true → outByte t = outByte s ∧ outValid t = true))) ∧
  (∀ (s : State) (d : DecPins) (e : EncPins) (rest : List Input), e.rst = true → d.rst = false →
    ∃ u, step { s with inputs := .edge .loopback d e CkPins.quiet :: rest } = .next u ∧
      u.dec = s.dec ∧ verdict u.dec = verdict s.dec ∧ u.wire = s.wire ∧
      u.enc = { phase := .encIdle, lenR := 0x00#8, cursor := 0x00#8, acc := 0x00#8, err := false } ∧ u.inputs = rest)

/-- R191: while busy the bit `enc_start` and the length beside it change nothing, and no error flag is raised. -/
def Obligations.StartIsIgnoredWhileBusy : Prop :=
  ∀ (s : State) (w : Wiring) (d : DecPins) (y : Bool) (n : BitVec 16) (k : CkPins) (rest : List Input),
    encBusy s = true →
    step { s with inputs := .edge w d ⟨false, true, n, y⟩ k :: rest } =
      step { s with inputs := .edge w d ⟨false, false, 0x0000#16, y⟩ k :: rest } ∧
    ∀ t, step { s with inputs := .edge w d ⟨false, true, n, y⟩ k :: rest } = .next t → t.enc.err = s.enc.err

/-- R130, R70: the frame of a payload of at most 255 bytes, and PayloadTooLarge for a longer one. -/
def Obligations.EncodeBuildsTheFrame : Prop :=
  ∀ p : List Byte,
    (255 < p.length → encodeFrame p = .payloadTooLarge) ∧
    (p.length ≤ 255 →
      encodeFrame p = .bytes ([0x02#8, BitVec.ofNat 8 p.length] ++ p ++ [cksum8Of p, 0x03#8]))

/-- R131. -/
def Obligations.EncodeIsInjectiveByPosition : Prop :=
  (∀ (p f : List Byte), encodeFrame p = .bytes f →
    f.length = p.length + 4 ∧ f[0]? = some 0x02#8 ∧ f[1]? = some (BitVec.ofNat 8 p.length) ∧
    (∀ k, 2 ≤ k → k ≤ p.length + 1 → f[k]? = p[k - 2]?) ∧
    f[p.length + 2]? = some (cksum8Of p) ∧ f[p.length + 3]? = some 0x03#8) ∧
  (∀ p q : List Byte, p.length ≤ 255 → q.length ≤ 255 → encodeFrame p = encodeFrame q → p = q)

/-! ## Words and rows -/

/-- Decoding the word of a row gives the row back, with every operand at every value, whatever the registers are that its extra
condition allows (30_encoding.md section 3). -/
def Obligations.DecodeEncodeRoundTrip : Prop :=
  ∀ (i : Instr) (c : SelCtx), i.wf = true → i.registersAllow c = true → decode (encode i) c = .ok i

/-- No bit of a dispatch word is dropped: the row read from a word encodes to it again, and it is well formed. -/
def Obligations.EncodeDecodeRoundTrip : Prop :=
  (∀ (w : BitVec 13) (c : SelCtx) (i : Instr), decode (.d w) c = .ok i →
    encode i = .d w ∧ i.wf = true ∧ i.registersAllow c = true) ∧
  (∀ (w : BitVec 10) (c : SelCtx) (i : Instr), decode (.k w) c = .ok i → encode i = .k w ∧ i.wf = true) ∧
  (∀ (w : BitVec 7) (n : BitVec 16) (c : SelCtx) (i : Instr), decode (.e w n) c = .ok i →
    (∃ m, encode i = .e w m) ∧ i.wf = true ∧ i.registersAllow c = true)

/-- The decoder by fields is the table by priority: the first row whose mask, match and condition fit (R74, R76 to R78, R86). -/
def Obligations.TableByPriorityIsTheDecoder : Prop :=
  (∀ (w : BitVec 13) (c : SelCtx),
    ((decode (.d w) c).toOption).map Instr.mnemonic = selectRow rowsD w c (w.extractLsb' 0 8)) ∧
  (∀ (w : BitVec 7) (n : BitVec 16) (c : SelCtx), w.getLsbD 4 = tooLargeBit n →
    ((decode (.e w n) c).toOption).map Instr.mnemonic = selectRow rowsE w c 0x00#8) ∧
  (∀ (w : BitVec 10) (c : SelCtx),
    ((decode (.k w) c).toOption).map Instr.mnemonic = selectRow rowsK w c (w.extractLsb' 0 8))

/-- Words written out from the patterns and vectors of spec/ (95_test_vectors.md P1, P3, V35, V36, V7). -/
def Obligations.WordsReadAsTheSpecSays : Prop :=
  ∀ c : SelCtx,
    decode (.d 0x1A02#13) c = .ok (.reset true 0b010#3 0x02#8) ∧ decode (.d 0x0200#13) c = .ok (.idle 0b010#3 0x00#8) ∧
    decode (.d 0x0802#13) c = .ok .feedStartOk ∧ decode (.d 0x0855#13) c = .ok (.feedStartBad 0x55#8) ∧
    decode (.d 0x0903#13) c = .ok (.feedLenNonzero 0x03#8) ∧ decode (.d 0x0900#13) c = .ok .feedLenZero ∧
    decode (.d 0x0C03#13) c = .ok .feedEndOk ∧ decode (.d 0x0E03#13) c = .ok (.feedFailed 0x03#8) ∧
    decode (.e 0x20#7 0x0003#16) c = .ok (.encStartOk false 0x03#8) ∧
    decode (.e 0x30#7 0x0100#16) c = .ok (.encStartTooLarge false 0x0100#16) ∧
    decode (.e 0x23#7 0x0005#16) c = .ok (.encStall true false .encPayload) ∧
    decode (.e 0x2D#7 0x0005#16) c = .ok (.encEmitEnd true false) ∧
    decode (.e 0x4C#7 0x0000#16) c = .ok (.encReset false false true 0b100#3) ∧
    decode (.k 0x3FF#10) c = .ok (.ckClr true 0xFF#8) ∧ decode (.k 0x141#10) c = .ok (.ckAdd 0x41#8)

/-! ## Steps -/

/-- A step whose input is a whole word runs the instruction the word decodes to. -/
def Obligations.StepRunsTheDecodedWord : Prop :=
  ∀ (s : State) (w : DispatchWord) (i : Instr) (rest : List Input), decode w (selCtx s) = .ok i →
    step { s with inputs := .word w :: rest } = exec i { s with inputs := rest }

/-- R9: a clock edge runs one operation of each block, each decoded from the word its pins and registers form before the step; with
no input left it is an edge with nothing driven (log 1); presenting a payload runs no operation and is refused while an
ENCODE is in progress (R190, U6, log 9). -/
def Obligations.StepRunsOneOperationPerBlock : Prop :=
  (∀ (s : State) (d : DecPins) (e : EncPins) (k : CkPins) (rest : List Input) (i j l : Instr),
    decode (.d (dispatchWordD d s.dec.state)) (selCtx s) = .ok i →
    decode (.e (dispatchWordE e s.enc.phase) e.len) (selCtx s) = .ok j →
    decode (.k (dispatchWordK k)) (selCtx s) = .ok l →
    step { s with inputs := .edge .driven d e k :: rest } = runOps [i, j, l] { s with inputs := rest }) ∧
  (∀ s : State, step { s with inputs := [] } = .next { s with inputs := [] }) ∧
  (∀ (s : State) (p : List Byte) (rest : List Input),
    (encBusy s = false → step { s with inputs := .present p :: rest } =
      .next { s with payloadSrc := sourceOf p, inputs := rest }) ∧
    (encBusy s = true → step { s with inputs := .present p :: rest } = .refused .payloadChanged))

/-- The place a table word is put: the very next step runs its instruction (log 2). -/
def Obligations.FetchWordRunsNext : Prop :=
  ∀ (s : State) (nbits w : Nat) (dw : DispatchWord) (i : Instr), tableWord nbits w = some dw →
    decodeTableWord nbits w = some i →
    step (s.withFetchWord nbits w) = exec i (alignRegisters dw s)

/-- A row's meaning answers a next state exactly where the row is selected, and otherwise it is refused by name. -/
def Obligations.SelectedRowsComplete : Prop :=
  ∀ (i : Instr) (s : State),
    (selected i s = true → Completes (exec i s)) ∧
    (selected i s = false → exec i s = .refused .rowNotSelected ∨ exec i s = .refused .illegalStateCode ∨
      exec i s = .refused .illegalPhaseCode)

/-- R74, R163: in a state with the invariant every clock edge selects exactly one row of each block, whatever the pins, and
completes. -/
def Obligations.EveryEdgeCompletes : Prop :=
  ∀ (s : State) (w : Wiring) (d : DecPins) (e : EncPins) (k : CkPins) (rest : List Input), Inv s →
    (∃ i j l, edgeOps w d e k s = .ok [i, j, l] ∧ selected i s = true ∧ selected j s = true ∧ selected l s = true) ∧
    Completes (step { s with inputs := .edge w d e k :: rest })

/-- R9, R12: operations of two different blocks commute. -/
def Obligations.BlocksDoNotInteract : Prop :=
  ∀ (i j : Instr) (s t u : State), (i.format = .d ∨ i.format = .e ∨ i.format = .k) →
    (j.format = .d ∨ j.format = .e ∨ j.format = .k) → i.format ≠ j.format →
    exec i s = .next t → exec j s = .next u → ∃ v, exec j t = .next v ∧ exec i u = .next v

/-- R159 (D9): `rst` wins over `in_valid`, `enc_rst` over `enc_start`, `ck_clr` over `ck_en`. -/
def Obligations.ResetInputsWin : Prop :=
  (∀ (s : State) (v : Bool) (b : Byte) (e : EncPins) (k : CkPins) (rest : List Input),
    step { s with inputs := .edge .driven ⟨true, v, b⟩ e k :: rest } =
      step { s with inputs := .edge .driven DecPins.reset e k :: rest }) ∧
  (∀ (s : State) (w : Wiring) (d : DecPins) (st y : Bool) (n : BitVec 16) (k : CkPins) (rest : List Input),
    step { s with inputs := .edge w d ⟨true, st, n, y⟩ k :: rest } =
      step { s with inputs := .edge w d ⟨true, false, 0x0000#16, y⟩ k :: rest }) ∧
  (∀ (s : State) (w : Wiring) (d : DecPins) (e : EncPins) (en : Bool) (b : Byte) (rest : List Input),
    step { s with inputs := .edge w d e ⟨true, en, b⟩ :: rest } =
      step { s with inputs := .edge w d e ⟨true, false, 0x00#8⟩ :: rest })

/-! ## Frames -/

/-- What the decoder's operations leave unchanged: everything outside the decoder; every register but those named; every cell but
the one at `write_cursor` when a payload byte is fed (R22, R23, R24, R26, R52, R181). -/
def Obligations.DecoderOperationsFrame : Prop :=
  ∀ (i : Instr) (s t : State), i.format = .d → exec i s = .next t →
    t.enc = s.enc ∧ t.ck = s.ck ∧ t.payloadSrc = s.payloadSrc ∧ t.wire = s.wire ∧ t.reads = s.reads ∧
    t.draws = s.draws ∧ t.inputs = s.inputs ∧
    (t.dec.declaredLength = s.dec.declaredLength ∨ (∃ v c b, i = .reset v c b) ∨ i = .feedLenZero ∨
      ∃ b, i = .feedLenNonzero b) ∧
    (t.dec.writeCursor = s.dec.writeCursor ∨ (∃ v c b, i = .reset v c b) ∨ (∃ b, i = .feedPayloadMore b) ∨
      ∃ b, i = .feedPayloadLast b) ∧
    (t.dec.checksumAcc = s.dec.checksumAcc ∨ (∃ v c b, i = .reset v c b) ∨ (∃ b, i = .feedPayloadMore b) ∨
      ∃ b, i = .feedPayloadLast b) ∧
    (t.dec.failCause = s.dec.failCause ∨ (∃ v c b, i = .reset v c b) ∨ (∃ b, i = .feedStartBad b) ∨
      (∃ b, i = .feedCksumBad b) ∨ ∃ b, i = .feedEndBad b) ∧
    (t.dec.state = s.dec.state ∨ ((∀ c b, i ≠ .idle c b) ∧ (∀ b, i ≠ .feedPayloadMore b) ∧ (∀ b, i ≠ .feedDone b) ∧
      ∀ b, i ≠ .feedFailed b)) ∧
    (∀ a, a ≠ s.dec.writeCursor.toNat → bufRead t.dec a = bufRead s.dec a) ∧
    ((∀ b, i ≠ .feedPayloadMore b) → (∀ b, i ≠ .feedPayloadLast b) → ∀ a, bufRead t.dec a = bufRead s.dec a)

/-- What the encoder's operations leave unchanged: the decoder and its buffer, the stand-alone CK8, the payload source; every
register but those named; the bytes already transferred (R34, R56, R181). -/
def Obligations.EncoderOperationsFrame : Prop :=
  ∀ (i : Instr) (s t : State), i.format = .e → exec i s = .next t →
    t.dec = s.dec ∧ t.ck = s.ck ∧ t.payloadSrc = s.payloadSrc ∧ t.reads = s.reads ∧ t.draws = s.draws ∧
    t.inputs = s.inputs ∧ (∀ a, bufRead t.dec a = bufRead s.dec a) ∧
    (∀ a, payloadByte t.payloadSrc a = payloadByte s.payloadSrc a) ∧
    (t.enc.lenR = s.enc.lenR ∨ (∃ st tl y c, i = .encReset st tl y c) ∨ ∃ y n, i = .encStartOk y n) ∧
    (t.enc.cursor = s.enc.cursor ∨ (∃ st tl y c, i = .encReset st tl y c) ∨ (∃ y n, i = .encStartOk y n) ∨
      (∃ st tl, i = .encEmitPayloadMore st tl) ∨ ∃ st tl, i = .encEmitPayloadLast st tl) ∧
    (t.enc.acc = s.enc.acc ∨ (∃ st tl y c, i = .encReset st tl y c) ∨ (∃ y n, i = .encStartOk y n) ∨
      (∃ st tl, i = .encEmitPayloadMore st tl) ∨ ∃ st tl, i = .encEmitPayloadLast st tl) ∧
    (t.enc.err = s.enc.err ∨ (∃ st tl y c, i = .encReset st tl y c) ∨ (∃ y n, i = .encStartOk y n) ∨
      ∃ y n, i = .encStartTooLarge y n) ∧
    (t.enc.phase = s.enc.phase ∨ ((∀ tl y, i ≠ .encIdle tl y) ∧ (∀ y n, i ≠ .encStartTooLarge y n) ∧
      (∀ st tl p, i ≠ .encStall st tl p) ∧ ∀ st tl, i ≠ .encEmitPayloadMore st tl)) ∧
    (t.wire = s.wire ∨ ∃ x, t.wire = s.wire ++ [x])

/-- What the stand-alone CK8, the reads and the functions leave unchanged: both blocks and every cell; format K writes `ck` only,
formats R and function only the caller's record (R36, R116, R117, R131). -/
def Obligations.OtherOperationsFrame : Prop :=
  ∀ (i : Instr) (s t : State), exec i s = .next t →
    (i.format = .k → t = { s with ck := t.ck }) ∧
    (i.format = .r ∨ i.format = .function → t = { s with reads := t.reads, draws := t.draws } ∧
      (∀ a, bufRead t.dec a = bufRead s.dec a) ∧ ∃ x, t.reads = s.reads ++ [x]) ∧
    (i.format = .k → ∀ a, bufRead t.dec a = bufRead s.dec a)

/-- R52: who writes the buffer, where and what. -/
def Obligations.OnlyPayloadFeedsWriteTheBuffer : Prop :=
  ∀ (i : Instr) (s t : State), exec i s = .next t →
    (∀ b, i = .feedPayloadMore b ∨ i = .feedPayloadLast b → s.dec.state = .awaitingPayload ∧
      t.dec.buffer = memWrite s.dec.buffer s.dec.writeCursor.toNat b ∧
      memRead t.dec.buffer s.dec.writeCursor.toNat = some b ∧
      ∀ a, a ≠ s.dec.writeCursor.toNat → memRead t.dec.buffer a = memRead s.dec.buffer a) ∧
    ((∀ b, i ≠ .feedPayloadMore b) → (∀ b, i ≠ .feedPayloadLast b) → t.dec.buffer = s.dec.buffer)

/-! ## Errors and the state graph -/

/-- R154: the three errors, the operations that raise them, their codes and the state after; nothing else raises anything. -/
def Obligations.OnlyTheNamedOperationsRaise : Prop :=
  (∀ (b : Byte) (s t : State), exec (.feedStartBad b) s = .next t ∨ exec (.feedEndBad b) s = .next t →
    t.dec.state = .failed ∧ t.dec.failCause = false ∧ (verdict t.dec).code = 0b11#2) ∧
  (∀ (b : Byte) (s t : State), exec (.feedCksumBad b) s = .next t →
    t.dec.state = .failed ∧ t.dec.failCause = true ∧ (verdict t.dec).code = 0b10#2) ∧
  (∀ (y : Bool) (n : BitVec 16) (s t : State), exec (.encStartTooLarge y n) s = .next t →
    t.enc.phase = .encIdle ∧ encErr t = true) ∧
  (∀ (i : Instr) (s t : State), exec i s = .next t → s.dec.state ≠ .failed → t.dec.state = .failed →
    (t.dec.failCause = false ∧ verdict t.dec = .malformed ∧ ((∃ b, i = .feedStartBad b) ∨ ∃ b, i = .feedEndBad b)) ∨
    (t.dec.failCause = true ∧ verdict t.dec = .checksumMismatch ∧ ∃ b, i = .feedCksumBad b)) ∧
  (∀ (i : Instr) (s t : State), exec i s = .next t → s.enc.err = false → t.enc.err = true →
    t.enc.phase = .encIdle ∧ ∃ y n, i = .encStartTooLarge y n)

/-- R161: in Done and in Failed every operation but RESET leaves the whole decoder as it is, so no second error occurs; RESET starts
afresh. -/
def Obligations.OnlyResetLeavesATerminalState : Prop :=
  ∀ (i : Instr) (s t : State), s.dec.state = .done ∨ s.dec.state = .failed → exec i s = .next t →
    ((∀ v c b, i ≠ .reset v c b) → t.dec = s.dec) ∧
    ((∃ v c b, i = .reset v c b) → t.dec.state = .awaitingStart ∧ t.dec.failCause = false ∧ t.dec.writeCursor = 0x00#8 ∧
      t.dec.declaredLength = 0x00#8 ∧ t.dec.checksumAcc = 0x00#8)

/-- R118: every state change is an edge of the graph. -/
def Obligations.StateGraphHasNoOtherEdges : Prop :=
  ∀ (i : Instr) (s t : State), exec i s = .next t → t.dec.state ≠ s.dec.state →
    ((∃ v c b, i = .reset v c b) ∧ t.dec.state = .awaitingStart) ∨
    (s.dec.state, t.dec.state) ∈
      [(DecState.awaitingStart, DecState.awaitingLength), (.awaitingStart, .failed),
       (.awaitingLength, .awaitingPayload), (.awaitingLength, .awaitingChecksum),
       (.awaitingPayload, .awaitingChecksum), (.awaitingChecksum, .awaitingEnd), (.awaitingChecksum, .failed),
       (.awaitingEnd, .done), (.awaitingEnd, .failed)]

/-! ## Reset and invariants -/

/-- R42: every register and every specified output of the reset state, and that RESET, ENC.RESET and CK.CLR lead to the same
values. What R42 calls unspecified is coded as no value: `rd_data` and `out_byte` by log 11, the cells by log 8. -/
def Obligations.ResetStateValues : Prop :=
  State.reset.dec.state = .awaitingStart ∧ State.reset.dec.writeCursor = 0x00#8 ∧
  State.reset.dec.checksumAcc = 0x00#8 ∧ logicalContents State.reset.dec = [] ∧
  State.reset.dec.declaredLength = 0x00#8 ∧ State.reset.dec.failCause = false ∧
  (verdict State.reset.dec).code = 0b00#2 ∧ payloadLen State.reset.dec = 0x00#8 ∧
  (∀ a, rdData State.reset.dec a = none) ∧ (∀ a, memRead State.reset.dec.buffer a = none) ∧
  State.reset.enc.phase = .encIdle ∧ State.reset.enc.lenR = 0x00#8 ∧ State.reset.enc.cursor = 0x00#8 ∧
  State.reset.enc.acc = 0x00#8 ∧ State.reset.enc.err = false ∧ outValid State.reset = false ∧
  outLast State.reset = false ∧ encBusy State.reset = false ∧ plAddr State.reset = 0x00#8 ∧
  outByte State.reset = none ∧ State.reset.ck = 0x00#8 ∧
  (∀ (v : Bool) (code : BitVec 3) (b : Byte) (s t : State), exec (.reset v code b) s = .next t →
    t.dec = { State.reset.dec with buffer := s.dec.buffer } ∧ logicalContents t.dec = [] ∧
    (verdict t.dec).code = 0b00#2 ∧ payloadLen t.dec = 0x00#8 ∧ ∀ a, rdData t.dec a = none) ∧
  (∀ (st tl y : Bool) (code : BitVec 3) (s t : State), exec (.encReset st tl y code) s = .next t →
    t.enc = State.reset.enc ∧ outValid t = false ∧ outLast t = false ∧ plAddr t = 0x00#8 ∧ outByte t = none) ∧
  (∀ (en : Bool) (b : Byte) (s t : State), exec (.ckClr en b) s = .next t → t.ck = 0x00#8)

/-- The invariant holds at reset. -/
def Obligations.ResetSatisfiesTheInvariant : Prop := Inv State.reset

/-- INV1 to INV6 (R30), the serializer's invariant and both memories' canonical form are kept by every step. -/
def Obligations.StepKeepsTheInvariant : Prop :=
  ∀ s t : State, Inv s → step s = .next t → Inv t

/-! ## The codec -/

/-- R119 (a), (e): DECODE of ENCODE of any payload of at most 255 bytes, from any state whatever. -/
def Obligations.DecodingAnEncodedPayloadCompletes : Prop :=
  ∀ (p f : List Byte) (s : State) (rest : List Input), encodeFrame p = .bytes f →
    ∃ t, runSteps (f.length + 2) { s with inputs := decodeProgram f ++ rest } = .next t ∧
      t.reads = s.reads ++ [.result .complete (BitVec.ofNat 8 p.length) p] ∧ t.dec.state = .done ∧ t.inputs = rest

/-- R119 (b): one changed payload byte gives ChecksumMismatch. The answer records `payload_len`, which is `declared_length` in every
state (R117, log 7), though U2 gives it no meaning in Failed. -/
def Obligations.ChangedPayloadByteIsDetected : Prop :=
  ∀ (p f : List Byte) (k : Nat) (b : Byte) (s : State) (rest : List Input), encodeFrame p = .bytes f →
    k < p.length → p[k]? ≠ some b →
    ∃ t, runSteps (f.length + 2) { s with inputs := decodeProgram (f.set (k + 2) b) ++ rest } = .next t ∧
      t.reads = s.reads ++ [.result .checksumMismatch (BitVec.ofNat 8 p.length) []]

/-- R119 (c): a changed START or END byte gives Malformed. The answer records `payload_len`, which is `declared_length` in every
state (R117, log 7), though U2 gives it no meaning in Failed. -/
def Obligations.ChangedMarkerIsDetected : Prop :=
  ∀ (p f : List Byte) (b : Byte) (s : State) (rest : List Input), encodeFrame p = .bytes f →
    (b ≠ 0x02#8 →
      ∃ t, runSteps (f.length + 2) { s with inputs := decodeProgram (f.set 0 b) ++ rest } = .next t ∧
        t.reads = s.reads ++ [.result .malformed 0x00#8 []]) ∧
    (b ≠ 0x03#8 →
      ∃ t, runSteps (f.length + 2) { s with inputs := decodeProgram (f.set (p.length + 3) b) ++ rest } = .next t ∧
        t.reads = s.reads ++ [.result .malformed (BitVec.ofNat 8 p.length) []])

/-- R119 (f): a proper beginning of a frame leaves Pending. -/
def Obligations.ProperBeginningStaysPending : Prop :=
  ∀ (p f : List Byte) (k : Nat) (s : State) (rest : List Input), encodeFrame p = .bytes f → k < f.length →
    ∃ t n, runSteps (k + 2) { s with inputs := decodeProgram (f.take k) ++ rest } = .next t ∧
      t.reads = s.reads ++ [.result .pending n []]

/-- R146: whatever the pace of the receiver, the serializer transfers ENCODE's bytes, `out_last` with the last only; and the ENCODE
program of a payload longer than 255 bytes transfers none and sets `enc_err`. Presenting the payload is a step of its own (log
9), and the length of a payload longer than 65535 bytes on the port is log 20's. -/
def Obligations.SerializerImplementsEncode : Prop :=
  (∀ (p f : List Byte) (ready : List Bool) (s : State) (rest : List Input), encodeFrame p = .bytes f →
    s.enc.phase = .encIdle → ready.count true = p.length + 4 →
    ∃ t, runSteps (ready.length + 2)
        { s with
          inputs := .present p :: lineEncStart (BitVec.ofNat 16 p.length) ::
            (ready.map (fun y => encLine { EncPins.quiet with outReady := y }) ++ rest) } = .next t ∧
      t.wire = s.wire ++ (f.dropLast.map (fun b => ⟨b, false⟩) ++ [⟨0x03#8, true⟩]) ∧
      t.enc.phase = .encIdle ∧ t.enc.err = false ∧ t.inputs = rest) ∧
  (∀ (p : List Byte) (s : State) (rest : List Input), 255 < p.length → s.enc.phase = .encIdle →
    ∃ t, runSteps (p.length + 6) { s with inputs := encodeProgram p ++ rest } = .next t ∧
      t.wire = s.wire ∧ t.enc.phase = .encIdle ∧ t.enc.err = true ∧ t.dec = s.dec ∧ t.inputs = rest)

/-- R146, R119 (a), D30: feeding each transferred byte to a freshly reset decoder in the step it is transferred ends in Done with
the payload. Presenting the payload is a step of its own (log 9). -/
def Obligations.LoopbackDeliversThePayload : Prop :=
  ∀ (p : List Byte) (s : State) (rest : List Input), p.length ≤ 255 → s.enc.phase = .encIdle →
    ∃ t, runSteps (p.length + 7) { s with inputs := loopbackProgram p ++ rest } = .next t ∧
      t.dec.state = .done ∧ deliveredPayload t.dec = p ∧ t.enc.phase = .encIdle ∧ t.inputs = rest

/-- R118, R195: a frame attempt reaches a terminal state after at most 259 FEEDs from the reset state. -/
def Obligations.AttemptsEndWithin259Bytes : Prop :=
  ∀ (l : List Byte) (s : State) (rest : List Input), 259 ≤ l.length →
    ∃ t, runSteps (l.length + 1) { s with inputs := lineReset :: (feedAll l ++ rest) } = .next t ∧
      verdict t.dec ≠ .pending ∧ t.inputs = rest

/-- R39 (log 17): a step of one context is that core's own step, whatever the others hold, and leaves every other as it was. -/
def Obligations.ContextsShareNothing : Prop :=
  ∀ (n m : Nat) (sys sys' : List State), stepContext n sys = .next sys' →
    sys'.length = sys.length ∧ (m ≠ n → sys'[m]? = sys[m]?) ∧
    ∀ s, sys[n]? = some s → ∃ t, step s = .next t ∧ sys'[n]? = some t
end

