-- ==== Sys2Proof/Laws/Decode.lean ====
section
/-! SUPPORT. The fields of words made by concatenation, and codes against names. -/

namespace Sys2Proof

@[simp] theorem DecState.ofCode_code (s : DecState) : DecState.ofCode s.code = some s := by cases s <;> rfl

@[simp] theorem EncPhase.ofCode_code (p : EncPhase) : EncPhase.ofCode p.code = some p := by cases p <;> rfl

theorem DecState.code_of_ofCode {c : BitVec 3} {s : DecState} (h : DecState.ofCode c = some s) : s.code = c := by
  revert c; cases s <;> decide

theorem EncPhase.code_of_ofCode {c : BitVec 3} {p : EncPhase} (h : EncPhase.ofCode c = some p) : p.code = c := by
  revert c; cases p <;> decide

@[simp] theorem bit_getLsbD_zero (b : Bool) : (bit b).getLsbD 0 = b := by cases b <;> rfl

@[simp] theorem bit_getElem_zero (b : Bool) : (bit b)[0] = b := by cases b <;> rfl

/-- `too_large` of the canonical value of `enc_len`. -/
@[simp] theorem tooLargeBit_canonical (t : Bool) : tooLargeBit (canonicalEncLen t) = t := by cases t <;> rfl

/-! ## Any two fields side by side -/

theorem append_low {m n : Nat} (x : BitVec m) (y : BitVec n) : (x ++ y).extractLsb' 0 n = y := by
  ext i hi; simp [BitVec.getLsbD_append, hi]

theorem append_high {m n : Nat} (x : BitVec m) (y : BitVec n) (k : Nat) :
    (x ++ y).extractLsb' n k = x.extractLsb' 0 k := by
  ext i hi; simp [BitVec.getLsbD_append]

theorem append_bit_high {m n : Nat} (x : BitVec m) (y : BitVec n) (i : Nat) :
    (x ++ y).getLsbD (n + i) = x.getLsbD i := by
  simp [BitVec.getLsbD_append]

theorem append_bit_low {m n : Nat} (x : BitVec m) (y : BitVec n) (i : Nat) (h : i < n) :
    (x ++ y).getLsbD i = y.getLsbD i := by
  simp [BitVec.getLsbD_append, h]

theorem getElem_eq_of_getLsbD {m n i j : Nat} {x : BitVec m} {y : BitVec n} (hi : i < m) (hj : j < n)
    (h : x.getLsbD i = y.getLsbD j) : x[i] = y[j] := by
  simpa [BitVec.getLsbD_eq_getElem, hi, hj] using h

/-! ## Format D: `rst ++ in_valid ++ state ++ in_byte` -/

@[simp] theorem wordD_byte (r v : BitVec 1) (c : BitVec 3) (b : Byte) :
    BitVec.extractLsb' (n := 13) 0 8 (r ++ v ++ c ++ b) = b := append_low (r ++ v ++ c) b

@[simp] theorem wordD_code (r v : BitVec 1) (c : BitVec 3) (b : Byte) :
    BitVec.extractLsb' (n := 13) 8 3 (r ++ v ++ c ++ b) = c := (append_high (r ++ v ++ c) b 3).trans (append_low (r ++ v) c)

@[simp] theorem wordD_valid (r v : BitVec 1) (c : BitVec 3) (b : Byte) :
    (r ++ v ++ c ++ b : BitVec 13)[11] = v[0] := getElem_eq_of_getLsbD (by decide) (by decide) <|
    (append_bit_high (r ++ v ++ c) b 3).trans
    ((append_bit_high (r ++ v) c 0).trans (append_bit_low r v 0 (by decide)))

@[simp] theorem wordD_rst (r v : BitVec 1) (c : BitVec 3) (b : Byte) :
    (r ++ v ++ c ++ b : BitVec 13)[12] = r[0] := getElem_eq_of_getLsbD (by decide) (by decide) <|
    (append_bit_high (r ++ v ++ c) b 4).trans
    ((append_bit_high (r ++ v) c 1).trans (append_bit_high r v 0))

/-! Bits 12 to 8 given together, as in the patterns of the FEED rows. -/

@[simp] theorem wordD5_byte (h : BitVec 5) (b : Byte) :
    BitVec.extractLsb' (n := 13) 0 8 (h ++ b) = b := append_low h b

@[simp] theorem wordD5_code (h : BitVec 5) (b : Byte) :
    BitVec.extractLsb' (n := 13) 8 3 (h ++ b) = h.extractLsb' 0 3 := append_high h b 3

@[simp] theorem wordD5_valid (h : BitVec 5) (b : Byte) :
    (h ++ b : BitVec 13)[11] = h[3] := getElem_eq_of_getLsbD (by decide) (by decide) <|
    append_bit_high h b 3

@[simp] theorem wordD5_rst (h : BitVec 5) (b : Byte) :
    (h ++ b : BitVec 13)[12] = h[4] := getElem_eq_of_getLsbD (by decide) (by decide) <|
    append_bit_high h b 4

/-! Bits 12 and 11 given together, as in the pattern of IDLE. -/

@[simp] theorem wordD2_byte (h : BitVec 2) (c : BitVec 3) (b : Byte) :
    BitVec.extractLsb' (n := 13) 0 8 (h ++ c ++ b) = b := append_low (h ++ c) b

@[simp] theorem wordD2_code (h : BitVec 2) (c : BitVec 3) (b : Byte) :
    BitVec.extractLsb' (n := 13) 8 3 (h ++ c ++ b) = c := (append_high (h ++ c) b 3).trans (append_low h c)

@[simp] theorem wordD2_valid (h : BitVec 2) (c : BitVec 3) (b : Byte) :
    (h ++ c ++ b : BitVec 13)[11] = h[0] := getElem_eq_of_getLsbD (by decide) (by decide) <|
    (append_bit_high (h ++ c) b 3).trans (append_bit_high h c 0)

@[simp] theorem wordD2_rst (h : BitVec 2) (c : BitVec 3) (b : Byte) :
    (h ++ c ++ b : BitVec 13)[12] = h[1] := getElem_eq_of_getLsbD (by decide) (by decide) <|
    (append_bit_high (h ++ c) b 4).trans (append_bit_high h c 1)

/-! ## Format E: `enc_rst ++ enc_start ++ too_large ++ out_ready ++ enc_phase` -/

/-- The code, then the four bits above it. -/
theorem wordE_fields (r s t y : Bool) (c : BitVec 3) :
    BitVec.extractLsb' (n := 7) 0 3 (bit r ++ bit s ++ bit t ++ bit y ++ c) = c ∧
    BitVec.getLsbD (w := 7) (bit r ++ bit s ++ bit t ++ bit y ++ c) 3 = y ∧
    BitVec.getLsbD (w := 7) (bit r ++ bit s ++ bit t ++ bit y ++ c) 4 = t ∧
    BitVec.getLsbD (w := 7) (bit r ++ bit s ++ bit t ++ bit y ++ c) 5 = s ∧
    BitVec.getLsbD (w := 7) (bit r ++ bit s ++ bit t ++ bit y ++ c) 6 = r := by
  revert c; cases r <;> cases s <;> cases t <;> cases y <;> decide

/-! ## Format K: `ck_clr ++ ck_en ++ ck_byte` -/

@[simp] theorem wordK_byte (r v : BitVec 1) (b : Byte) :
    BitVec.extractLsb' (n := 10) 0 8 (r ++ v ++ b) = b := append_low (r ++ v) b

@[simp] theorem wordK_en (r v : BitVec 1) (b : Byte) :
    (r ++ v ++ b : BitVec 10)[8] = v[0] := getElem_eq_of_getLsbD (by decide) (by decide) <|
    (append_bit_high (r ++ v) b 0).trans (append_bit_low r v 0 (by decide))

@[simp] theorem wordK_clr (r v : BitVec 1) (b : Byte) :
    (r ++ v ++ b : BitVec 10)[9] = r[0] := getElem_eq_of_getLsbD (by decide) (by decide) <|
    (append_bit_high (r ++ v) b 1).trans (append_bit_high r v 0)

@[simp] theorem wordK2_byte (h : BitVec 2) (b : Byte) :
    BitVec.extractLsb' (n := 10) 0 8 (h ++ b) = b := append_low h b

@[simp] theorem wordK2_en (h : BitVec 2) (b : Byte) :
    (h ++ b : BitVec 10)[8] = h[0] := getElem_eq_of_getLsbD (by decide) (by decide) <|
    append_bit_high h b 0

@[simp] theorem wordK2_clr (h : BitVec 2) (b : Byte) :
    (h ++ b : BitVec 10)[9] = h[1] := getElem_eq_of_getLsbD (by decide) (by decide) <|
    append_bit_high h b 1

/-! ## A word is its fields side by side -/

theorem word_split {m n : Nat} (w : BitVec (m + n)) : w.extractLsb' n m ++ w.extractLsb' 0 n = w := by
  ext i hi
  simp only [BitVec.getElem_append]
  split
  · simp [BitVec.getLsbD_eq_getElem hi]
  · simp only [BitVec.getElem_extractLsb']
    rw [show n + (i - n) = i by omega, BitVec.getLsbD_eq_getElem]

theorem wordD_split (w : BitVec 13) :
    bit (w.getLsbD 12) ++ bit (w.getLsbD 11) ++ w.extractLsb' 8 3 ++ (w.extractLsb' 0 8 : Byte) = w := by
  have high : ∀ h : BitVec 5, bit (h.getLsbD 4) ++ bit (h.getLsbD 3) ++ h.extractLsb' 0 3 = h := by decide
  have code : (w.extractLsb' 8 5).extractLsb' 0 3 = w.extractLsb' 8 3 := by ext i hi; simp; omega
  have h := high (w.extractLsb' 8 5)
  rw [code] at h
  simp only [BitVec.getLsbD_extractLsb'] at h
  exact (congrArg (fun x : BitVec 5 => (x ++ w.extractLsb' 0 8 : BitVec 13)) h).trans (word_split (m := 5) (n := 8) w)

theorem wordK_split (w : BitVec 10) :
    bit (w.getLsbD 9) ++ bit (w.getLsbD 8) ++ (w.extractLsb' 0 8 : Byte) = w := by
  have high : ∀ h : BitVec 2, bit (h.getLsbD 1) ++ bit (h.getLsbD 0) = h := by decide
  have h := high (w.extractLsb' 8 2)
  simp only [BitVec.getLsbD_extractLsb'] at h
  exact (congrArg (fun x : BitVec 2 => (x ++ w.extractLsb' 0 8 : BitVec 10)) h).trans (word_split (m := 2) (n := 8) w)

theorem wordE_split : ∀ w : BitVec 7,
    bit (w.getLsbD 6) ++ bit (w.getLsbD 5) ++ bit (w.getLsbD 4) ++ bit (w.getLsbD 3) ++ w.extractLsb' 0 3 = w := by
  decide
end Sys2Proof
end

