-- ==== Sys2Proof/Laws/Memory.lean ====
section
/-! SUPPORT. The laws of the byte memory: read after write, and that every operation keeps the canonical form. -/

namespace Sys2Proof.Machine

@[simp] theorem memRead_nil (i : Nat) : memRead [] i = none := rfl

@[simp] theorem memRead_memWrite_same (m : Memory) (i : Nat) (b : Byte) : memRead (memWrite m i b) i = some b := by
  induction m with
  | nil => simp [memWrite, memRead]
  | cons c m ih =>
    simp only [memWrite]
    split
    · simp [memRead]
    · split
      · simp [memRead]
      · next h => simp [memRead, h, ih]

theorem memRead_memWrite_other (m : Memory) (i j : Nat) (b : Byte) (h : j ≠ i) :
    memRead (memWrite m i b) j = memRead m j := by
  induction m with
  | nil => simp [memWrite, memRead, h]
  | cons c m ih =>
    simp only [memWrite]
    split
    · simp [memRead, h]
    · split
      · next h' => subst h'; simp [memRead, h]
      · simp [memRead, ih]

theorem mem_memWrite {m : Memory} {i : Nat} {b : Byte} {c : Host.Cell} (h : c ∈ memWrite m i b) :
    c = (i, b) ∨ c ∈ m := by
  induction m with
  | nil => simpa [memWrite] using h
  | cons d m ih =>
    simp only [memWrite] at h
    split at h
    · simpa using h
    · split at h
      · simp only [List.mem_cons] at h ⊢
        tauto
      · simp only [List.mem_cons] at h ⊢
        rcases h with h | h
        · exact .inr (.inl h)
        · rcases ih h with h | h
          · exact .inl h
          · exact .inr (.inr h)

/-- A write inside the capacity keeps the canonical form. -/
theorem memWrite_wf {cap : Nat} {m : Memory} {i : Nat} (b : Byte) (hi : i < cap) (h : Memory.wf cap m) :
    Memory.wf cap (memWrite m i b) := by
  refine ⟨?_, fun c hc => ?_⟩
  · obtain ⟨h, -⟩ := h
    induction m with
    | nil => simp [memWrite]
    | cons d m ih =>
      obtain ⟨hd, hm⟩ := List.pairwise_cons.mp h
      simp only [memWrite]
      split
      · next hlt =>
        refine List.pairwise_cons.mpr ⟨fun c hc => ?_, h⟩
        rcases List.mem_cons.mp hc with rfl | hc
        · exact hlt
        · exact Nat.lt_trans hlt (hd c hc)
      · split
        · next heq => subst heq; exact List.pairwise_cons.mpr ⟨hd, hm⟩
        · refine List.pairwise_cons.mpr ⟨fun c hc => ?_, ih hm⟩
          rcases mem_memWrite hc with rfl | hc
          · show d.1 < i; omega
          · exact hd c hc
  · rcases mem_memWrite hc with rfl | hc
    · exact hi
    · exact h.2 c hc

theorem mem_memFrom {i : Nat} {l : List Byte} {c : Host.Cell} (h : c ∈ memFrom i l) :
    i ≤ c.1 ∧ c.1 < i + l.length := by
  induction l generalizing i with
  | nil => simp [memFrom] at h
  | cons b l ih =>
    rcases List.mem_cons.mp h with rfl | h
    · simp
    · have := ih h; simp only [List.length_cons]; omega

theorem memFrom_wf {cap i : Nat} {l : List Byte} (h : i + l.length ≤ cap) : Memory.wf cap (memFrom i l) := by
  refine ⟨?_, fun c hc => by have := mem_memFrom hc; omega⟩
  induction l generalizing i with
  | nil => simp [memFrom]
  | cons b l ih =>
    refine List.pairwise_cons.mpr ⟨fun c hc => ?_, ih (by simp only [List.length_cons] at h; omega)⟩
    have := mem_memFrom hc
    show i < c.1
    omega

theorem memRead_memFrom (i j : Nat) (l : List Byte) : memRead (memFrom i l) (i + j) = l[j]? := by
  induction l generalizing i j with
  | nil => simp [memFrom]
  | cons b l ih =>
    cases j with
    | zero => simp [memFrom, memRead]
    | succ j =>
      have := ih (i + 1) j
      simp only [memFrom, memRead, List.getElem?_cons_succ]
      rw [if_neg (by omega), show i + (j + 1) = i + 1 + j by omega, this]

/-- What a presented payload keeps: the canonical form, within the source's indices. -/
theorem sourceOf_wf (p : List Byte) : Memory.wf Config.SRC_CAP (sourceOf p) :=
  memFrom_wf (by simp [Config.SRC_CAP])

/-- The source answers the byte presented. -/
theorem payloadByte_sourceOf (p : List Byte) (i : Nat) (hi : i < p.length) (hc : i < Config.SRC_CAP) :
    payloadByte (sourceOf p) i = p[i] := by
  have := memRead_memFrom 0 i (p.take Config.SRC_CAP)
  simp only [Nat.zero_add] at this
  simp [payloadByte, sourceOf, this, hc, List.getElem?_eq_getElem hi]

/-- Everything a buffer write can do. -/
theorem bufWrite_eq_some {m m' : Memory} {i : Nat} {b : Byte} (h : bufWrite m i b = some m') :
    i < Config.BUF_CAP ∧ m' = memWrite m i b := by
  simp only [bufWrite] at h
  split at h
  · next hi => exact ⟨hi, by simpa using h.symm⟩
  · simp at h

/-- A buffer write inside the buffer lands. -/
theorem bufWrite_of_lt {m : Memory} {i : Nat} {b : Byte} (h : i < Config.BUF_CAP) :
    bufWrite m i b = some (memWrite m i b) := if_pos h

theorem bufRead_after_write {d : Decoder} {i j : Nat} {b : Byte} :
    bufRead { d with buffer := memWrite d.buffer i b } j = if j = i then b else bufRead d j := by
  split
  · next h => subst h; simp [bufRead]
  · next h => simp [bufRead, memRead_memWrite_other _ _ _ _ h]

end Sys2Proof.Machine
end

