-- ==== Sys2Proof/Laws/State.lean ====
section
/-! SUPPORT. What each register write does to each field: one lemma per field per update, so that no proof unfolds a record update. -/

namespace Sys2Proof.Machine

/-! ## Decoder -/

@[simp] theorem Decoder.setState_state (d : Decoder) (v : DecState) : (d.setState v).state = v := rfl
@[simp] theorem Decoder.setState_declaredLength (d : Decoder) (v : DecState) : (d.setState v).declaredLength = d.declaredLength := rfl
@[simp] theorem Decoder.setState_writeCursor (d : Decoder) (v : DecState) : (d.setState v).writeCursor = d.writeCursor := rfl
@[simp] theorem Decoder.setState_checksumAcc (d : Decoder) (v : DecState) : (d.setState v).checksumAcc = d.checksumAcc := rfl
@[simp] theorem Decoder.setState_failCause (d : Decoder) (v : DecState) : (d.setState v).failCause = d.failCause := rfl
@[simp] theorem Decoder.setState_buffer (d : Decoder) (v : DecState) : (d.setState v).buffer = d.buffer := rfl
@[simp] theorem Decoder.setDeclaredLength_state (d : Decoder) (v : Byte) : (d.setDeclaredLength v).state = d.state := rfl
@[simp] theorem Decoder.setDeclaredLength_declaredLength (d : Decoder) (v : Byte) : (d.setDeclaredLength v).declaredLength = v := rfl
@[simp] theorem Decoder.setDeclaredLength_writeCursor (d : Decoder) (v : Byte) : (d.setDeclaredLength v).writeCursor = d.writeCursor := rfl
@[simp] theorem Decoder.setDeclaredLength_checksumAcc (d : Decoder) (v : Byte) : (d.setDeclaredLength v).checksumAcc = d.checksumAcc := rfl
@[simp] theorem Decoder.setDeclaredLength_failCause (d : Decoder) (v : Byte) : (d.setDeclaredLength v).failCause = d.failCause := rfl
@[simp] theorem Decoder.setDeclaredLength_buffer (d : Decoder) (v : Byte) : (d.setDeclaredLength v).buffer = d.buffer := rfl
@[simp] theorem Decoder.setWriteCursor_state (d : Decoder) (v : Byte) : (d.setWriteCursor v).state = d.state := rfl
@[simp] theorem Decoder.setWriteCursor_declaredLength (d : Decoder) (v : Byte) : (d.setWriteCursor v).declaredLength = d.declaredLength := rfl
@[simp] theorem Decoder.setWriteCursor_writeCursor (d : Decoder) (v : Byte) : (d.setWriteCursor v).writeCursor = v := rfl
@[simp] theorem Decoder.setWriteCursor_checksumAcc (d : Decoder) (v : Byte) : (d.setWriteCursor v).checksumAcc = d.checksumAcc := rfl
@[simp] theorem Decoder.setWriteCursor_failCause (d : Decoder) (v : Byte) : (d.setWriteCursor v).failCause = d.failCause := rfl
@[simp] theorem Decoder.setWriteCursor_buffer (d : Decoder) (v : Byte) : (d.setWriteCursor v).buffer = d.buffer := rfl
@[simp] theorem Decoder.setChecksumAcc_state (d : Decoder) (v : Byte) : (d.setChecksumAcc v).state = d.state := rfl
@[simp] theorem Decoder.setChecksumAcc_declaredLength (d : Decoder) (v : Byte) : (d.setChecksumAcc v).declaredLength = d.declaredLength := rfl
@[simp] theorem Decoder.setChecksumAcc_writeCursor (d : Decoder) (v : Byte) : (d.setChecksumAcc v).writeCursor = d.writeCursor := rfl
@[simp] theorem Decoder.setChecksumAcc_checksumAcc (d : Decoder) (v : Byte) : (d.setChecksumAcc v).checksumAcc = v := rfl
@[simp] theorem Decoder.setChecksumAcc_failCause (d : Decoder) (v : Byte) : (d.setChecksumAcc v).failCause = d.failCause := rfl
@[simp] theorem Decoder.setChecksumAcc_buffer (d : Decoder) (v : Byte) : (d.setChecksumAcc v).buffer = d.buffer := rfl
@[simp] theorem Decoder.setFailCause_state (d : Decoder) (v : Bool) : (d.setFailCause v).state = d.state := rfl
@[simp] theorem Decoder.setFailCause_declaredLength (d : Decoder) (v : Bool) : (d.setFailCause v).declaredLength = d.declaredLength := rfl
@[simp] theorem Decoder.setFailCause_writeCursor (d : Decoder) (v : Bool) : (d.setFailCause v).writeCursor = d.writeCursor := rfl
@[simp] theorem Decoder.setFailCause_checksumAcc (d : Decoder) (v : Bool) : (d.setFailCause v).checksumAcc = d.checksumAcc := rfl
@[simp] theorem Decoder.setFailCause_failCause (d : Decoder) (v : Bool) : (d.setFailCause v).failCause = v := rfl
@[simp] theorem Decoder.setFailCause_buffer (d : Decoder) (v : Bool) : (d.setFailCause v).buffer = d.buffer := rfl
@[simp] theorem Decoder.setBuffer_state (d : Decoder) (v : Memory) : (d.setBuffer v).state = d.state := rfl
@[simp] theorem Decoder.setBuffer_declaredLength (d : Decoder) (v : Memory) : (d.setBuffer v).declaredLength = d.declaredLength := rfl
@[simp] theorem Decoder.setBuffer_writeCursor (d : Decoder) (v : Memory) : (d.setBuffer v).writeCursor = d.writeCursor := rfl
@[simp] theorem Decoder.setBuffer_checksumAcc (d : Decoder) (v : Memory) : (d.setBuffer v).checksumAcc = d.checksumAcc := rfl
@[simp] theorem Decoder.setBuffer_failCause (d : Decoder) (v : Memory) : (d.setBuffer v).failCause = d.failCause := rfl
@[simp] theorem Decoder.setBuffer_buffer (d : Decoder) (v : Memory) : (d.setBuffer v).buffer = v := rfl

/-! ## Encoder -/

@[simp] theorem Encoder.setPhase_phase (e : Encoder) (v : EncPhase) : (e.setPhase v).phase = v := rfl
@[simp] theorem Encoder.setPhase_lenR (e : Encoder) (v : EncPhase) : (e.setPhase v).lenR = e.lenR := rfl
@[simp] theorem Encoder.setPhase_cursor (e : Encoder) (v : EncPhase) : (e.setPhase v).cursor = e.cursor := rfl
@[simp] theorem Encoder.setPhase_acc (e : Encoder) (v : EncPhase) : (e.setPhase v).acc = e.acc := rfl
@[simp] theorem Encoder.setPhase_err (e : Encoder) (v : EncPhase) : (e.setPhase v).err = e.err := rfl
@[simp] theorem Encoder.setLenR_phase (e : Encoder) (v : Byte) : (e.setLenR v).phase = e.phase := rfl
@[simp] theorem Encoder.setLenR_lenR (e : Encoder) (v : Byte) : (e.setLenR v).lenR = v := rfl
@[simp] theorem Encoder.setLenR_cursor (e : Encoder) (v : Byte) : (e.setLenR v).cursor = e.cursor := rfl
@[simp] theorem Encoder.setLenR_acc (e : Encoder) (v : Byte) : (e.setLenR v).acc = e.acc := rfl
@[simp] theorem Encoder.setLenR_err (e : Encoder) (v : Byte) : (e.setLenR v).err = e.err := rfl
@[simp] theorem Encoder.setCursor_phase (e : Encoder) (v : Byte) : (e.setCursor v).phase = e.phase := rfl
@[simp] theorem Encoder.setCursor_lenR (e : Encoder) (v : Byte) : (e.setCursor v).lenR = e.lenR := rfl
@[simp] theorem Encoder.setCursor_cursor (e : Encoder) (v : Byte) : (e.setCursor v).cursor = v := rfl
@[simp] theorem Encoder.setCursor_acc (e : Encoder) (v : Byte) : (e.setCursor v).acc = e.acc := rfl
@[simp] theorem Encoder.setCursor_err (e : Encoder) (v : Byte) : (e.setCursor v).err = e.err := rfl
@[simp] theorem Encoder.setAcc_phase (e : Encoder) (v : Byte) : (e.setAcc v).phase = e.phase := rfl
@[simp] theorem Encoder.setAcc_lenR (e : Encoder) (v : Byte) : (e.setAcc v).lenR = e.lenR := rfl
@[simp] theorem Encoder.setAcc_cursor (e : Encoder) (v : Byte) : (e.setAcc v).cursor = e.cursor := rfl
@[simp] theorem Encoder.setAcc_acc (e : Encoder) (v : Byte) : (e.setAcc v).acc = v := rfl
@[simp] theorem Encoder.setAcc_err (e : Encoder) (v : Byte) : (e.setAcc v).err = e.err := rfl
@[simp] theorem Encoder.setErr_phase (e : Encoder) (v : Bool) : (e.setErr v).phase = e.phase := rfl
@[simp] theorem Encoder.setErr_lenR (e : Encoder) (v : Bool) : (e.setErr v).lenR = e.lenR := rfl
@[simp] theorem Encoder.setErr_cursor (e : Encoder) (v : Bool) : (e.setErr v).cursor = e.cursor := rfl
@[simp] theorem Encoder.setErr_acc (e : Encoder) (v : Bool) : (e.setErr v).acc = e.acc := rfl
@[simp] theorem Encoder.setErr_err (e : Encoder) (v : Bool) : (e.setErr v).err = v := rfl

/-! ## State -/

@[simp] theorem State.setDec_dec (s : State) (v : Decoder) : (s.setDec v).dec = v := rfl
@[simp] theorem State.setDec_enc (s : State) (v : Decoder) : (s.setDec v).enc = s.enc := rfl
@[simp] theorem State.setDec_ck (s : State) (v : Decoder) : (s.setDec v).ck = s.ck := rfl
@[simp] theorem State.setDec_payloadSrc (s : State) (v : Decoder) : (s.setDec v).payloadSrc = s.payloadSrc := rfl
@[simp] theorem State.setDec_wire (s : State) (v : Decoder) : (s.setDec v).wire = s.wire := rfl
@[simp] theorem State.setDec_reads (s : State) (v : Decoder) : (s.setDec v).reads = s.reads := rfl
@[simp] theorem State.setDec_draws (s : State) (v : Decoder) : (s.setDec v).draws = s.draws := rfl
@[simp] theorem State.setDec_inputs (s : State) (v : Decoder) : (s.setDec v).inputs = s.inputs := rfl
@[simp] theorem State.setEnc_dec (s : State) (v : Encoder) : (s.setEnc v).dec = s.dec := rfl
@[simp] theorem State.setEnc_enc (s : State) (v : Encoder) : (s.setEnc v).enc = v := rfl
@[simp] theorem State.setEnc_ck (s : State) (v : Encoder) : (s.setEnc v).ck = s.ck := rfl
@[simp] theorem State.setEnc_payloadSrc (s : State) (v : Encoder) : (s.setEnc v).payloadSrc = s.payloadSrc := rfl
@[simp] theorem State.setEnc_wire (s : State) (v : Encoder) : (s.setEnc v).wire = s.wire := rfl
@[simp] theorem State.setEnc_reads (s : State) (v : Encoder) : (s.setEnc v).reads = s.reads := rfl
@[simp] theorem State.setEnc_draws (s : State) (v : Encoder) : (s.setEnc v).draws = s.draws := rfl
@[simp] theorem State.setEnc_inputs (s : State) (v : Encoder) : (s.setEnc v).inputs = s.inputs := rfl
@[simp] theorem State.setCk_dec (s : State) (v : Byte) : (s.setCk v).dec = s.dec := rfl
@[simp] theorem State.setCk_enc (s : State) (v : Byte) : (s.setCk v).enc = s.enc := rfl
@[simp] theorem State.setCk_ck (s : State) (v : Byte) : (s.setCk v).ck = v := rfl
@[simp] theorem State.setCk_payloadSrc (s : State) (v : Byte) : (s.setCk v).payloadSrc = s.payloadSrc := rfl
@[simp] theorem State.setCk_wire (s : State) (v : Byte) : (s.setCk v).wire = s.wire := rfl
@[simp] theorem State.setCk_reads (s : State) (v : Byte) : (s.setCk v).reads = s.reads := rfl
@[simp] theorem State.setCk_draws (s : State) (v : Byte) : (s.setCk v).draws = s.draws := rfl
@[simp] theorem State.setCk_inputs (s : State) (v : Byte) : (s.setCk v).inputs = s.inputs := rfl
@[simp] theorem State.setPayloadSrc_dec (s : State) (v : Memory) : (s.setPayloadSrc v).dec = s.dec := rfl
@[simp] theorem State.setPayloadSrc_enc (s : State) (v : Memory) : (s.setPayloadSrc v).enc = s.enc := rfl
@[simp] theorem State.setPayloadSrc_ck (s : State) (v : Memory) : (s.setPayloadSrc v).ck = s.ck := rfl
@[simp] theorem State.setPayloadSrc_payloadSrc (s : State) (v : Memory) : (s.setPayloadSrc v).payloadSrc = v := rfl
@[simp] theorem State.setPayloadSrc_wire (s : State) (v : Memory) : (s.setPayloadSrc v).wire = s.wire := rfl
@[simp] theorem State.setPayloadSrc_reads (s : State) (v : Memory) : (s.setPayloadSrc v).reads = s.reads := rfl
@[simp] theorem State.setPayloadSrc_draws (s : State) (v : Memory) : (s.setPayloadSrc v).draws = s.draws := rfl
@[simp] theorem State.setPayloadSrc_inputs (s : State) (v : Memory) : (s.setPayloadSrc v).inputs = s.inputs := rfl
@[simp] theorem State.setWire_dec (s : State) (v : List Transfer) : (s.setWire v).dec = s.dec := rfl
@[simp] theorem State.setWire_enc (s : State) (v : List Transfer) : (s.setWire v).enc = s.enc := rfl
@[simp] theorem State.setWire_ck (s : State) (v : List Transfer) : (s.setWire v).ck = s.ck := rfl
@[simp] theorem State.setWire_payloadSrc (s : State) (v : List Transfer) : (s.setWire v).payloadSrc = s.payloadSrc := rfl
@[simp] theorem State.setWire_wire (s : State) (v : List Transfer) : (s.setWire v).wire = v := rfl
@[simp] theorem State.setWire_reads (s : State) (v : List Transfer) : (s.setWire v).reads = s.reads := rfl
@[simp] theorem State.setWire_draws (s : State) (v : List Transfer) : (s.setWire v).draws = s.draws := rfl
@[simp] theorem State.setWire_inputs (s : State) (v : List Transfer) : (s.setWire v).inputs = s.inputs := rfl
@[simp] theorem State.setReads_dec (s : State) (v : List ReadOut) : (s.setReads v).dec = s.dec := rfl
@[simp] theorem State.setReads_enc (s : State) (v : List ReadOut) : (s.setReads v).enc = s.enc := rfl
@[simp] theorem State.setReads_ck (s : State) (v : List ReadOut) : (s.setReads v).ck = s.ck := rfl
@[simp] theorem State.setReads_payloadSrc (s : State) (v : List ReadOut) : (s.setReads v).payloadSrc = s.payloadSrc := rfl
@[simp] theorem State.setReads_wire (s : State) (v : List ReadOut) : (s.setReads v).wire = s.wire := rfl
@[simp] theorem State.setReads_reads (s : State) (v : List ReadOut) : (s.setReads v).reads = v := rfl
@[simp] theorem State.setReads_draws (s : State) (v : List ReadOut) : (s.setReads v).draws = s.draws := rfl
@[simp] theorem State.setReads_inputs (s : State) (v : List ReadOut) : (s.setReads v).inputs = s.inputs := rfl
@[simp] theorem State.setDraws_dec (s : State) (v : Nat) : (s.setDraws v).dec = s.dec := rfl
@[simp] theorem State.setDraws_enc (s : State) (v : Nat) : (s.setDraws v).enc = s.enc := rfl
@[simp] theorem State.setDraws_ck (s : State) (v : Nat) : (s.setDraws v).ck = s.ck := rfl
@[simp] theorem State.setDraws_payloadSrc (s : State) (v : Nat) : (s.setDraws v).payloadSrc = s.payloadSrc := rfl
@[simp] theorem State.setDraws_wire (s : State) (v : Nat) : (s.setDraws v).wire = s.wire := rfl
@[simp] theorem State.setDraws_reads (s : State) (v : Nat) : (s.setDraws v).reads = s.reads := rfl
@[simp] theorem State.setDraws_draws (s : State) (v : Nat) : (s.setDraws v).draws = v := rfl
@[simp] theorem State.setDraws_inputs (s : State) (v : Nat) : (s.setDraws v).inputs = s.inputs := rfl
@[simp] theorem State.setInputs_dec (s : State) (v : List Input) : (s.setInputs v).dec = s.dec := rfl
@[simp] theorem State.setInputs_enc (s : State) (v : List Input) : (s.setInputs v).enc = s.enc := rfl
@[simp] theorem State.setInputs_ck (s : State) (v : List Input) : (s.setInputs v).ck = s.ck := rfl
@[simp] theorem State.setInputs_payloadSrc (s : State) (v : List Input) : (s.setInputs v).payloadSrc = s.payloadSrc := rfl
@[simp] theorem State.setInputs_wire (s : State) (v : List Input) : (s.setInputs v).wire = s.wire := rfl
@[simp] theorem State.setInputs_reads (s : State) (v : List Input) : (s.setInputs v).reads = s.reads := rfl
@[simp] theorem State.setInputs_draws (s : State) (v : List Input) : (s.setInputs v).draws = s.draws := rfl
@[simp] theorem State.setInputs_inputs (s : State) (v : List Input) : (s.setInputs v).inputs = v := rfl

/-! ## The reset values of the two blocks -/

@[simp] theorem Decoder.initial_state : Decoder.initial.state = .awaitingStart := rfl
@[simp] theorem Decoder.initial_declaredLength : Decoder.initial.declaredLength = 0x00#8 := rfl
@[simp] theorem Decoder.initial_writeCursor : Decoder.initial.writeCursor = 0x00#8 := rfl
@[simp] theorem Decoder.initial_checksumAcc : Decoder.initial.checksumAcc = 0x00#8 := rfl
@[simp] theorem Decoder.initial_failCause : Decoder.initial.failCause = false := rfl
@[simp] theorem Decoder.initial_buffer : Decoder.initial.buffer = [] := rfl
@[simp] theorem Encoder.initial_phase : Encoder.initial.phase = .encIdle := rfl
@[simp] theorem Encoder.initial_lenR : Encoder.initial.lenR = 0x00#8 := rfl
@[simp] theorem Encoder.initial_cursor : Encoder.initial.cursor = 0x00#8 := rfl
@[simp] theorem Encoder.initial_acc : Encoder.initial.acc = 0x00#8 := rfl
@[simp] theorem Encoder.initial_err : Encoder.initial.err = false := rfl

/-! ## The whole-register updates -/

@[simp] theorem resetDecoder_dec (s : State) :
    (resetDecoder s).dec = Decoder.initial.setBuffer s.dec.buffer := rfl
@[simp] theorem resetEncoder_enc (s : State) : (resetEncoder s).enc = Encoder.initial := rfl
@[simp] theorem resetDecoder_enc (s : State) : (resetDecoder s).enc = s.enc := rfl
@[simp] theorem resetDecoder_ck (s : State) : (resetDecoder s).ck = s.ck := rfl
@[simp] theorem resetDecoder_payloadSrc (s : State) : (resetDecoder s).payloadSrc = s.payloadSrc := rfl
@[simp] theorem resetDecoder_wire (s : State) : (resetDecoder s).wire = s.wire := rfl
@[simp] theorem resetDecoder_reads (s : State) : (resetDecoder s).reads = s.reads := rfl
@[simp] theorem resetDecoder_draws (s : State) : (resetDecoder s).draws = s.draws := rfl
@[simp] theorem resetDecoder_inputs (s : State) : (resetDecoder s).inputs = s.inputs := rfl
@[simp] theorem resetEncoder_dec (s : State) : (resetEncoder s).dec = s.dec := rfl
@[simp] theorem resetEncoder_ck (s : State) : (resetEncoder s).ck = s.ck := rfl
@[simp] theorem resetEncoder_payloadSrc (s : State) : (resetEncoder s).payloadSrc = s.payloadSrc := rfl
@[simp] theorem resetEncoder_wire (s : State) : (resetEncoder s).wire = s.wire := rfl
@[simp] theorem resetEncoder_reads (s : State) : (resetEncoder s).reads = s.reads := rfl
@[simp] theorem resetEncoder_draws (s : State) : (resetEncoder s).draws = s.draws := rfl
@[simp] theorem resetEncoder_inputs (s : State) : (resetEncoder s).inputs = s.inputs := rfl
@[simp] theorem emit_dec (b : Byte) (s : State) : (emit b s).dec = s.dec := rfl
@[simp] theorem emit_enc (b : Byte) (s : State) : (emit b s).enc = s.enc := rfl
@[simp] theorem emit_ck (b : Byte) (s : State) : (emit b s).ck = s.ck := rfl
@[simp] theorem emit_payloadSrc (b : Byte) (s : State) : (emit b s).payloadSrc = s.payloadSrc := rfl
@[simp] theorem emit_reads (b : Byte) (s : State) : (emit b s).reads = s.reads := rfl
@[simp] theorem emit_draws (b : Byte) (s : State) : (emit b s).draws = s.draws := rfl
@[simp] theorem emit_inputs (b : Byte) (s : State) : (emit b s).inputs = s.inputs := rfl
@[simp] theorem answer_dec (r : ReadOut) (s : State) : (answer r s).dec = s.dec := rfl
@[simp] theorem answer_enc (r : ReadOut) (s : State) : (answer r s).enc = s.enc := rfl
@[simp] theorem answer_ck (r : ReadOut) (s : State) : (answer r s).ck = s.ck := rfl
@[simp] theorem answer_payloadSrc (r : ReadOut) (s : State) : (answer r s).payloadSrc = s.payloadSrc := rfl
@[simp] theorem answer_wire (r : ReadOut) (s : State) : (answer r s).wire = s.wire := rfl
@[simp] theorem answer_draws (r : ReadOut) (s : State) : (answer r s).draws = s.draws := rfl
@[simp] theorem answer_inputs (r : ReadOut) (s : State) : (answer r s).inputs = s.inputs := rfl
@[simp] theorem emit_wire (b : Byte) (s : State) :
    (emit b s).wire = s.wire ++ [{ byte := b, last := outLast s }] := rfl
@[simp] theorem answer_reads (r : ReadOut) (s : State) : (answer r s).reads = s.reads ++ [r] := rfl

end Sys2Proof.Machine
end

