-- ==== Sys2Proof/Laws/Ops.lean ====
section
/-! SUPPORT. One lemma per shared operation: everything it can do. -/

namespace Sys2Proof.Machine

/-! ## Selection -/

/-- A guarded effect answers a next state only where the row is selected, and then the effect's. -/
theorem onlyIf_eq_next {c : Bool} {r : Result} {t : State} : onlyIf c r = .next t ↔ c = true ∧ r = .next t := by
  cases c <;> simp [onlyIf]

@[simp] theorem onlyIf_true (r : Result) : onlyIf true r = r := rfl

theorem onlyIf_of_selected {c : Bool} {r : Result} (h : c = true) : onlyIf c r = r := by simp [h]

/-! ## CK8 -/

@[simp] theorem ck8Add_eq (a b : Byte) : ck8Add a b = a + b := by
  apply BitVec.eq_of_toNat_eq
  simp [ck8Add]

/-- "modulo 256: the carry out of bit 7 is discarded" (R91, R93). -/
theorem ck8Add_toNat (a b : Byte) : (ck8Add a b).toNat = (a.toNat + b.toNat) % 256 := by simp

@[simp] theorem ck8Clr_eq : ck8Clr = 0x00#8 := rfl
@[simp] theorem ck8Hold_eq (a : Byte) : ck8Hold a = a := rfl

@[simp] theorem sum8_nil : sum8 [] = 0x00#8 := rfl
@[simp] theorem sum8_cons (b : Byte) (l : List Byte) : sum8 (b :: l) = b + sum8 l := rfl

theorem sum8_append (l k : List Byte) : sum8 (l ++ k) = sum8 l + sum8 k := by
  induction l with
  | nil => simp
  | cons b l ih => simp [ih, BitVec.add_assoc]

/-! ## Errors -/

@[simp] theorem raiseError_malformed (s : State) :
    raiseError .malformed s = s.setDec ((s.dec.setState .failed).setFailCause false) := rfl
@[simp] theorem raiseError_checksumMismatch (s : State) :
    raiseError .checksumMismatch s = s.setDec ((s.dec.setState .failed).setFailCause true) := rfl
@[simp] theorem raiseError_payloadTooLarge (s : State) :
    raiseError .payloadTooLarge s = s.setEnc (s.enc.setErr true) := rfl

/-! ## Append -/

/-- Everything the append of a payload byte can do. -/
theorem appendByte_eq_next {b : Byte} {n : DecState} {s t : State} (h : appendByte b n s = .next t) :
    s.dec.writeCursor.toNat < Config.BUF_CAP ∧
      t = s.setDec ((((s.dec.setBuffer (memWrite s.dec.buffer s.dec.writeCursor.toNat b)).setChecksumAcc
        (s.dec.checksumAcc + b)).setWriteCursor (s.dec.writeCursor + 1)).setState n) := by
  simp only [appendByte] at h
  split at h
  · simp at h
  · next m hm =>
    obtain ⟨hi, rfl⟩ := bufWrite_eq_some hm
    exact ⟨hi, by simpa using h.symm⟩

/-- Inside the buffer the append lands. -/
theorem appendByte_of_lt {b : Byte} {n : DecState} {s : State} (h : s.dec.writeCursor.toNat < Config.BUF_CAP) :
    appendByte b n s = .next (s.setDec ((((s.dec.setBuffer
      (memWrite s.dec.buffer s.dec.writeCursor.toNat b)).setChecksumAcc (s.dec.checksumAcc + b)).setWriteCursor
      (s.dec.writeCursor + 1)).setState n)) := by
  simp [appendByte, bufWrite_of_lt h]

/-- A selected payload row's cursor has a cell: `write_cursor + 1 <= declared_length <= 255`. -/
theorem cursor_lt_of_payloadMore {c : SelCtx} (h : c.payloadMore = true) : c.writeCursor.toNat < Config.BUF_CAP := by
  have := c.declaredLength.isLt
  simp only [SelCtx.payloadMore, decide_eq_true_eq] at h
  simp only [Config.BUF_CAP]
  omega

theorem cursor_lt_of_payloadLast {c : SelCtx} (h : c.payloadLast = true) : c.writeCursor.toNat < Config.BUF_CAP := by
  have := c.declaredLength.isLt
  simp only [SelCtx.payloadLast, decide_eq_true_eq] at h
  simp only [Config.BUF_CAP]
  omega

@[simp] theorem selCtx_writeCursor (s : State) : (selCtx s).writeCursor = s.dec.writeCursor := rfl
@[simp] theorem selCtx_declaredLength (s : State) : (selCtx s).declaredLength = s.dec.declaredLength := rfl
@[simp] theorem selCtx_checksumAcc (s : State) : (selCtx s).checksumAcc = s.dec.checksumAcc := rfl
@[simp] theorem selCtx_encLenR (s : State) : (selCtx s).encLenR = s.enc.lenR := rfl
@[simp] theorem selCtx_encCursor (s : State) : (selCtx s).encCursor = s.enc.cursor := rfl
@[simp] theorem selCtx_payloadMore (s : State) :
    (selCtx s).payloadMore = decide (s.dec.writeCursor.toNat + 1 < s.dec.declaredLength.toNat) := rfl
@[simp] theorem selCtx_payloadLast (s : State) :
    (selCtx s).payloadLast = decide (s.dec.writeCursor.toNat + 1 = s.dec.declaredLength.toNat) := rfl
@[simp] theorem selCtx_encMore (s : State) :
    (selCtx s).encMore = decide (s.enc.cursor.toNat + 1 < s.enc.lenR.toNat) := rfl
@[simp] theorem selCtx_encLast (s : State) :
    (selCtx s).encLast = decide (s.enc.cursor.toNat + 1 = s.enc.lenR.toNat) := rfl

/-- `write_cursor + 1` does not wrap while a payload row is selected (R23). -/
theorem succ_toNat_of_lt {b : Byte} (h : b.toNat < 255) : (b + 1).toNat = b.toNat + 1 := by
  simp [BitVec.toNat_add]; omega

/-! ## Running the operations of a step -/

@[simp] theorem runOps_nil (s : State) : runOps [] s = .next s := rfl

theorem runOps_cons_of_next {i : Instr} {is : List Instr} {s t : State} (h : exec i s = .next t) :
    runOps (i :: is) s = runOps is t := by simp [runOps, h]

theorem runOps_cons_eq_next {i : Instr} {is : List Instr} {s u : State} (h : runOps (i :: is) s = .next u) :
    ∃ t, exec i s = .next t ∧ runOps is t = .next u := by
  simp only [runOps] at h
  split at h
  · next t ht => exact ⟨t, ht, h⟩
  · simp at h
  · simp at h

theorem runOps_single (i : Instr) (s : State) : runOps [i] s = exec i s := by
  simp only [runOps]; cases exec i s <;> rfl

end Sys2Proof.Machine
end

