-- ==== Sys2Proof/Laws/Exec.lean ====
section
/-! SUPPORT. One lemma per row: when `exec` answers a next state, and which. A later proof splits on the row and cites these. -/

namespace Sys2Proof.Machine

/-- The state after a payload byte is appended. -/
def appended (b : Byte) (n : DecState) (s : State) : State :=
  s.setDec ((((s.dec.setBuffer (memWrite s.dec.buffer s.dec.writeCursor.toNat b)).setChecksumAcc
    (s.dec.checksumAcc + b)).setWriteCursor (s.dec.writeCursor + 1)).setState n)

@[simp] theorem emitPayload_eq (n : EncPhase) (s : State) :
    emitPayload n s = (emit (plData s) s).setEnc
      (((s.enc.setAcc (s.enc.acc + plData s)).setCursor (s.enc.cursor + 1)).setPhase n) := by
  simp [emitPayload]

theorem exec_reset_eq_next {s t : State} (v : Bool) (c : BitVec 3) (b : Byte) :
    exec (.reset v c b) s = .next t ↔ t = resetDecoder s := by
  simp [exec, execReset, eq_comm (a := t)]

theorem exec_idle_eq_next {s t : State} (c : BitVec 3) (b : Byte) :
    exec (.idle c b) s = .next t ↔ t = s := by
  simp [exec, execIdle, eq_comm (a := t)]

theorem exec_feedStartOk_eq_next {s t : State} :
    exec .feedStartOk s = .next t ↔ selected .feedStartOk s = true ∧ t = s.setDec (s.dec.setState .awaitingLength) := by
  simp [exec, execFeedStartOk, onlyIf_eq_next, eq_comm (a := t)]

theorem exec_feedStartBad_eq_next {s t : State} (b : Byte) :
    exec (.feedStartBad b) s = .next t ↔ selected (.feedStartBad b) s = true ∧ t = raiseError .malformed s := by
  simp [exec, execFeedStartBad, onlyIf_eq_next, eq_comm (a := t)]

theorem exec_feedLenZero_eq_next {s t : State} :
    exec .feedLenZero s = .next t ↔ selected .feedLenZero s = true ∧ t = s.setDec ((s.dec.setDeclaredLength 0x00#8).setState .awaitingChecksum) := by
  simp [exec, execFeedLenZero, onlyIf_eq_next, eq_comm (a := t)]

theorem exec_feedLenNonzero_eq_next {s t : State} (b : Byte) :
    exec (.feedLenNonzero b) s = .next t ↔ selected (.feedLenNonzero b) s = true ∧ t = s.setDec ((s.dec.setDeclaredLength b).setState .awaitingPayload) := by
  simp [exec, execFeedLenNonzero, onlyIf_eq_next, eq_comm (a := t)]

theorem exec_feedPayloadMore_eq_next {s t : State} (b : Byte) :
    exec (.feedPayloadMore b) s = .next t ↔ selected (.feedPayloadMore b) s = true ∧ t = appended b .awaitingPayload s := by
  simp only [exec, execFeedPayloadMore, onlyIf_eq_next]
  refine and_congr_right fun h => ?_
  have hc := cursor_lt_of_payloadMore (c := selCtx s) (by simp only [selected, Bool.and_eq_true] at h; exact h.2)
  rw [appendByte_of_lt hc, Host.Outcome.next.injEq, eq_comm, appended]

theorem exec_feedPayloadLast_eq_next {s t : State} (b : Byte) :
    exec (.feedPayloadLast b) s = .next t ↔ selected (.feedPayloadLast b) s = true ∧ t = appended b .awaitingChecksum s := by
  simp only [exec, execFeedPayloadLast, onlyIf_eq_next]
  refine and_congr_right fun h => ?_
  have hc := cursor_lt_of_payloadLast (c := selCtx s) (by simp only [selected, Bool.and_eq_true] at h; exact h.2)
  rw [appendByte_of_lt hc, Host.Outcome.next.injEq, eq_comm, appended]

theorem exec_feedCksumOk_eq_next {s t : State} (b : Byte) :
    exec (.feedCksumOk b) s = .next t ↔ selected (.feedCksumOk b) s = true ∧ t = s.setDec (s.dec.setState .awaitingEnd) := by
  simp [exec, execFeedCksumOk, onlyIf_eq_next, eq_comm (a := t)]

theorem exec_feedCksumBad_eq_next {s t : State} (b : Byte) :
    exec (.feedCksumBad b) s = .next t ↔ selected (.feedCksumBad b) s = true ∧ t = raiseError .checksumMismatch s := by
  simp [exec, execFeedCksumBad, onlyIf_eq_next, eq_comm (a := t)]

theorem exec_feedEndOk_eq_next {s t : State} :
    exec .feedEndOk s = .next t ↔ selected .feedEndOk s = true ∧ t = s.setDec (s.dec.setState .done) := by
  simp [exec, execFeedEndOk, onlyIf_eq_next, eq_comm (a := t)]

theorem exec_feedEndBad_eq_next {s t : State} (b : Byte) :
    exec (.feedEndBad b) s = .next t ↔ selected (.feedEndBad b) s = true ∧ t = raiseError .malformed s := by
  simp [exec, execFeedEndBad, onlyIf_eq_next, eq_comm (a := t)]

theorem exec_feedDone_eq_next {s t : State} (b : Byte) :
    exec (.feedDone b) s = .next t ↔ selected (.feedDone b) s = true ∧ t = s := by
  simp [exec, execFeedDone, onlyIf_eq_next, eq_comm (a := t)]

theorem exec_feedFailed_eq_next {s t : State} (b : Byte) :
    exec (.feedFailed b) s = .next t ↔ selected (.feedFailed b) s = true ∧ t = s := by
  simp [exec, execFeedFailed, onlyIf_eq_next, eq_comm (a := t)]

theorem exec_feedIllstate (b : Byte) (s : State) : exec (.feedIllstate b) s = .refused .illegalStateCode := rfl

theorem exec_result_eq_next {s t : State} :
    exec .result s = .next t ↔ t = answer (.result (verdict s.dec) (payloadLen s.dec) (deliveredPayload s.dec)) s := by
  simp [exec, execResult, eq_comm (a := t)]

theorem exec_rdPayload_eq_next {s t : State} (a : Byte) :
    exec (.rdPayload a) s = .next t ↔
      (∃ b, rdData s.dec a = some b ∧ t = answer (.rdPayload a (payloadLen s.dec) b) s) ∨
      (rdData s.dec a = none ∧
        t = (answer (.rdPayload a (payloadLen s.dec) (Config.unspecifiedRdData s.draws)) s).setDraws (s.draws + 1)) := by
  simp only [exec, execRdPayload]
  cases rdData s.dec a <;> simp [eq_comm (a := t)]

theorem exec_encReset_eq_next {s t : State} (st tl y : Bool) (c : BitVec 3) :
    exec (.encReset st tl y c) s = .next t ↔ t = resetEncoder s := by
  simp [exec, execEncReset, eq_comm (a := t)]

theorem exec_encStartOk_eq_next {s t : State} (y : Bool) (n : Byte) :
    exec (.encStartOk y n) s = .next t ↔ selected (.encStartOk y n) s = true ∧ t = s.setEnc
      (((((s.enc.setLenR n).setCursor 0x00#8).setAcc 0x00#8).setErr false).setPhase .encStart) := by
  simp [exec, execEncStartOk, onlyIf_eq_next, eq_comm (a := t)]

theorem exec_encStartTooLarge_eq_next {s t : State} (y : Bool) (n : EncLen) :
    exec (.encStartTooLarge y n) s = .next t ↔ selected (.encStartTooLarge y n) s = true ∧ t = raiseError .payloadTooLarge s := by
  simp [exec, execEncStartTooLarge, onlyIf_eq_next, eq_comm (a := t)]

theorem exec_encIdle_eq_next {s t : State} (tl y : Bool) :
    exec (.encIdle tl y) s = .next t ↔ selected (.encIdle tl y) s = true ∧ t = s := by
  simp [exec, execEncIdle, onlyIf_eq_next, eq_comm (a := t)]

theorem exec_encEmitStart_eq_next {s t : State} (st tl : Bool) :
    exec (.encEmitStart st tl) s = .next t ↔ selected (.encEmitStart st tl) s = true ∧ t = (emit Config.START s).setEnc (s.enc.setPhase .encLength) := by
  simp [exec, execEncEmitStart, onlyIf_eq_next, eq_comm (a := t)]

theorem exec_encEmitLengthNz_eq_next {s t : State} (st tl : Bool) :
    exec (.encEmitLengthNz st tl) s = .next t ↔ selected (.encEmitLengthNz st tl) s = true ∧ t = (emit s.enc.lenR s).setEnc (s.enc.setPhase .encPayload) := by
  simp [exec, execEncEmitLengthNz, onlyIf_eq_next, eq_comm (a := t)]

theorem exec_encEmitLengthZ_eq_next {s t : State} (st tl : Bool) :
    exec (.encEmitLengthZ st tl) s = .next t ↔ selected (.encEmitLengthZ st tl) s = true ∧ t = (emit 0x00#8 s).setEnc (s.enc.setPhase .encChecksum) := by
  simp [exec, execEncEmitLengthZ, onlyIf_eq_next, eq_comm (a := t)]

theorem exec_encEmitPayloadMore_eq_next {s t : State} (st tl : Bool) :
    exec (.encEmitPayloadMore st tl) s = .next t ↔ selected (.encEmitPayloadMore st tl) s = true ∧ t = emitPayload .encPayload s := by
  simp [exec, execEncEmitPayloadMore, onlyIf_eq_next, eq_comm (a := t)]

theorem exec_encEmitPayloadLast_eq_next {s t : State} (st tl : Bool) :
    exec (.encEmitPayloadLast st tl) s = .next t ↔ selected (.encEmitPayloadLast st tl) s = true ∧ t = emitPayload .encChecksum s := by
  simp [exec, execEncEmitPayloadLast, onlyIf_eq_next, eq_comm (a := t)]

theorem exec_encEmitChecksum_eq_next {s t : State} (st tl : Bool) :
    exec (.encEmitChecksum st tl) s = .next t ↔ selected (.encEmitChecksum st tl) s = true ∧ t = (emit s.enc.acc s).setEnc (s.enc.setPhase .encEnd) := by
  simp [exec, execEncEmitChecksum, onlyIf_eq_next, eq_comm (a := t)]

theorem exec_encEmitEnd_eq_next {s t : State} (st tl : Bool) :
    exec (.encEmitEnd st tl) s = .next t ↔ selected (.encEmitEnd st tl) s = true ∧ t = (emit Config.END s).setEnc (s.enc.setPhase .encIdle) := by
  simp [exec, execEncEmitEnd, onlyIf_eq_next, eq_comm (a := t)]

theorem exec_encIllphase (st tl y l : Bool) (s : State) :
    exec (.encIllphase st tl y l) s = .refused .illegalPhaseCode := rfl

theorem exec_encStall_eq_next {s t : State} (st tl : Bool) (p : EncPhase) :
    exec (.encStall st tl p) s = .next t ↔ selected (.encStall st tl p) s = true ∧ t = s := by
  simp [exec, execEncStall, onlyIf_eq_next, eq_comm (a := t)]

theorem exec_ckClr_eq_next {s t : State} (en : Bool) (b : Byte) :
    exec (.ckClr en b) s = .next t ↔ t = s.setCk 0x00#8 := by
  simp [exec, execCkClr, ck8Step, eq_comm (a := t)]

theorem exec_ckAdd_eq_next {s t : State} (b : Byte) :
    exec (.ckAdd b) s = .next t ↔ t = s.setCk (s.ck + b) := by
  simp [exec, execCkAdd, ck8Step, eq_comm (a := t)]

theorem exec_ckHold_eq_next {s t : State} (b : Byte) :
    exec (.ckHold b) s = .next t ↔ t = s.setCk s.ck := by
  simp [exec, execCkHold, ck8Step, eq_comm (a := t)]

theorem exec_encode_eq_next {s t : State} (p : List Byte) :
    exec (.encode p) s = .next t ↔ t = answer (.encoded (encodeFrame p)) s := by
  simp [exec, execEncode, eq_comm (a := t)]

theorem exec_cksum8_eq_next {s t : State} (l : List Byte) :
    exec (.cksum8 l) s = .next t ↔ t = answer (.cksum (cksum8Of l)) s := by
  simp [exec, execCksum8, eq_comm (a := t)]

/-- The state each row leaves where it is selected. The two rows that are refused on every path are never selected. -/
def effect (i : Instr) (s : State) : State :=
  match i with
  | .reset _ _ _ => resetDecoder s
  | .idle _ _ | .feedDone _ | .feedFailed _ | .feedIllstate _ => s
  | .feedStartOk => s.setDec (s.dec.setState .awaitingLength)
  | .feedStartBad _ | .feedEndBad _ => raiseError .malformed s
  | .feedLenZero => s.setDec ((s.dec.setDeclaredLength 0x00#8).setState .awaitingChecksum)
  | .feedLenNonzero b => s.setDec ((s.dec.setDeclaredLength b).setState .awaitingPayload)
  | .feedPayloadMore b => appended b .awaitingPayload s
  | .feedPayloadLast b => appended b .awaitingChecksum s
  | .feedCksumOk _ => s.setDec (s.dec.setState .awaitingEnd)
  | .feedCksumBad _ => raiseError .checksumMismatch s
  | .feedEndOk => s.setDec (s.dec.setState .done)
  | .result => answer (.result (verdict s.dec) (payloadLen s.dec) (deliveredPayload s.dec)) s
  | .rdPayload a =>
    (answer (.rdPayload a (payloadLen s.dec) ((rdData s.dec a).getD (Config.unspecifiedRdData s.draws))) s).setDraws
      (if (rdData s.dec a).isSome then s.draws else s.draws + 1)
  | .encReset _ _ _ _ => resetEncoder s
  | .encStartOk _ n =>
    s.setEnc (((((s.enc.setLenR n).setCursor 0x00#8).setAcc 0x00#8).setErr false).setPhase .encStart)
  | .encStartTooLarge _ _ => raiseError .payloadTooLarge s
  | .encIdle _ _ | .encIllphase _ _ _ _ | .encStall _ _ _ => s
  | .encEmitStart _ _ => (emit Config.START s).setEnc (s.enc.setPhase .encLength)
  | .encEmitLengthNz _ _ => (emit s.enc.lenR s).setEnc (s.enc.setPhase .encPayload)
  | .encEmitLengthZ _ _ => (emit 0x00#8 s).setEnc (s.enc.setPhase .encChecksum)
  | .encEmitPayloadMore _ _ => emitPayload .encPayload s
  | .encEmitPayloadLast _ _ => emitPayload .encChecksum s
  | .encEmitChecksum _ _ => (emit s.enc.acc s).setEnc (s.enc.setPhase .encEnd)
  | .encEmitEnd _ _ => (emit Config.END s).setEnc (s.enc.setPhase .encIdle)
  | .ckClr _ _ => s.setCk 0x00#8
  | .ckAdd b => s.setCk (s.ck + b)
  | .ckHold _ => s.setCk s.ck
  | .encode p => answer (.encoded (encodeFrame p)) s
  | .cksum8 l => answer (.cksum (cksum8Of l)) s

/-- Everything `exec` can answer as a next state, for all rows at once: a proof about every row starts here. -/
theorem exec_next_iff {i : Instr} {s t : State} : exec i s = .next t ↔ selected i s = true ∧ t = effect i s := by
  cases i
  case rdPayload a =>
    rw [exec_rdPayload_eq_next]
    cases h : rdData s.dec a <;> simp [selected, effect, h, State.setDraws, answer, State.setReads]
  case feedIllstate b => simp [exec_feedIllstate, selected]
  case encIllphase st tl y l => simp [exec_encIllphase, selected]
  all_goals first
    | (simp only [exec_feedStartOk_eq_next, exec_feedStartBad_eq_next, exec_feedLenZero_eq_next,
        exec_feedLenNonzero_eq_next, exec_feedPayloadMore_eq_next, exec_feedPayloadLast_eq_next,
        exec_feedCksumOk_eq_next, exec_feedCksumBad_eq_next, exec_feedEndOk_eq_next, exec_feedEndBad_eq_next,
        exec_feedDone_eq_next, exec_feedFailed_eq_next, exec_encStartOk_eq_next, exec_encStartTooLarge_eq_next,
        exec_encIdle_eq_next, exec_encEmitStart_eq_next, exec_encEmitLengthNz_eq_next, exec_encEmitLengthZ_eq_next,
        exec_encEmitPayloadMore_eq_next, exec_encEmitPayloadLast_eq_next, exec_encEmitChecksum_eq_next,
        exec_encEmitEnd_eq_next, exec_encStall_eq_next, effect]
       done)
    | simp only [exec_reset_eq_next, exec_idle_eq_next, exec_result_eq_next, exec_encReset_eq_next, exec_ckClr_eq_next,
        exec_ckAdd_eq_next, exec_ckHold_eq_next, exec_encode_eq_next, exec_cksum8_eq_next, selected, effect, true_and]

end Sys2Proof.Machine
end

