-- ==== Sys2Proof/Laws/PerInstr.lean ====
section
/-! SUPPORT. Statements about every instruction as syntax, one lemma per constructor. The family `MaskMatch`: the word `encode` writes for a
row fits that row's mask and match in the table (30_encoding.md R74, R76 to R78, R86). -/

namespace Sys2Proof.Laws

namespace MaskMatch

/-- Whether the word of `i` fits the row of its own name. Formats R and function have mask 0 and match 0 (R79, R86): any word
fits. -/
def fitsItsRow (i : Instr) : Bool :=
  match encode i with
  | .d w => rowsD.any fun r => r.mnemonic == i.mnemonic && r.fits w
  | .e w _ => rowsE.any fun r => r.mnemonic == i.mnemonic && r.fits w
  | .k w => rowsK.any fun r => r.mnemonic == i.mnemonic && r.fits w
  | .result | .rdPayload _ | .encode _ | .cksum8 _ => true

/-- The statement of the family. -/
def Statement (i : Instr) : Prop := fitsItsRow i = true

theorem any_of_row {n : Nat} {rows : List (Row n)} {w : BitVec n} {name : String} (r : Row n) (hr : r ∈ rows)
    (hm : r.mnemonic = name) (hf : w &&& r.mask = r.pattern) :
    (rows.any fun r => r.mnemonic == name && r.fits w) = true :=
  List.any_eq_true.mpr ⟨r, hr, by simp [hm, Row.fits, hf]⟩

/-- The mask of a FEED row keeps bits 12 to 8. -/
theorem feed_mask (h : BitVec 5) (b : Byte) : ((h ++ b : BitVec 13)) &&& 0x1F00#13 = (h ++ 0x00#8 : BitVec 13) :=
  (BitVec.and_append (x₁ := h) (x₂ := 0x1F#5) (y₁ := b) (y₂ := 0x00#8)).trans
    (by rw [show h &&& 0x1F#5 = h by revert h; decide]; simp)

theorem reset (v : Bool) (c : BitVec 3) (b : Byte) : Statement (.reset v c b) :=
  any_of_row (rows := rowsD) ⟨"RESET", 0x1000#13, 0x1000#13, .always⟩ (by simp [rowsD]) rfl
    (by
      refine (BitVec.and_append (x₁ := 0b1#1 ++ bit v ++ c) (x₂ := 0x10#5) (y₁ := b) (y₂ := 0x00#8)).trans ?_
      have : (0b1#1 ++ bit v ++ c) &&& 0x10#5 = 0x10#5 := by revert c; cases v <;> decide
      rw [this]; simp)

theorem idle (c : BitVec 3) (b : Byte) : Statement (.idle c b) :=
  any_of_row (rows := rowsD) ⟨"IDLE", 0x1800#13, 0x0000#13, .always⟩ (by simp [rowsD]) rfl
    (by
      refine (BitVec.and_append (x₁ := 0b00#2 ++ c) (x₂ := 0x18#5) (y₁ := b) (y₂ := 0x00#8)).trans ?_
      have : (0b00#2 ++ c) &&& 0x18#5 = 0x00#5 := by revert c; decide
      rw [this]; simp)

theorem feedStartOk : Statement .feedStartOk :=
  any_of_row (rows := rowsD) ⟨"FEED.START_OK", 0x1FFF#13, 0x0802#13, .always⟩ (by simp [rowsD]) rfl (by decide)

theorem feedStartBad (b : Byte) : Statement (.feedStartBad b) :=
  any_of_row (rows := rowsD) ⟨"FEED.START_BAD", 0x1F00#13, 0x0800#13, .always⟩ (by simp [rowsD]) rfl (feed_mask _ b)

theorem feedLenZero : Statement .feedLenZero :=
  any_of_row (rows := rowsD) ⟨"FEED.LEN_ZERO", 0x1FFF#13, 0x0900#13, .always⟩ (by simp [rowsD]) rfl (by decide)

theorem feedLenNonzero (b : Byte) : Statement (.feedLenNonzero b) :=
  any_of_row (rows := rowsD) ⟨"FEED.LEN_NONZERO", 0x1F00#13, 0x0900#13, .always⟩ (by simp [rowsD]) rfl (feed_mask _ b)

theorem feedPayloadMore (b : Byte) : Statement (.feedPayloadMore b) :=
  any_of_row (rows := rowsD) ⟨"FEED.PAYLOAD_MORE", 0x1F00#13, 0x0A00#13, .payloadMore⟩ (by simp [rowsD]) rfl (feed_mask _ b)

theorem feedPayloadLast (b : Byte) : Statement (.feedPayloadLast b) :=
  any_of_row (rows := rowsD) ⟨"FEED.PAYLOAD_LAST", 0x1F00#13, 0x0A00#13, .payloadLast⟩ (by simp [rowsD]) rfl (feed_mask _ b)

theorem feedCksumOk (b : Byte) : Statement (.feedCksumOk b) :=
  any_of_row (rows := rowsD) ⟨"FEED.CKSUM_OK", 0x1F00#13, 0x0B00#13, .cksumOk⟩ (by simp [rowsD]) rfl (feed_mask _ b)

theorem feedCksumBad (b : Byte) : Statement (.feedCksumBad b) :=
  any_of_row (rows := rowsD) ⟨"FEED.CKSUM_BAD", 0x1F00#13, 0x0B00#13, .cksumBad⟩ (by simp [rowsD]) rfl (feed_mask _ b)

theorem feedEndOk : Statement .feedEndOk :=
  any_of_row (rows := rowsD) ⟨"FEED.END_OK", 0x1FFF#13, 0x0C03#13, .always⟩ (by simp [rowsD]) rfl (by decide)

theorem feedEndBad (b : Byte) : Statement (.feedEndBad b) :=
  any_of_row (rows := rowsD) ⟨"FEED.END_BAD", 0x1F00#13, 0x0C00#13, .always⟩ (by simp [rowsD]) rfl (feed_mask _ b)

theorem feedDone (b : Byte) : Statement (.feedDone b) :=
  any_of_row (rows := rowsD) ⟨"FEED.DONE", 0x1F00#13, 0x0D00#13, .always⟩ (by simp [rowsD]) rfl (feed_mask _ b)

theorem feedFailed (b : Byte) : Statement (.feedFailed b) :=
  any_of_row (rows := rowsD) ⟨"FEED.FAILED", 0x1F00#13, 0x0E00#13, .always⟩ (by simp [rowsD]) rfl (feed_mask _ b)

theorem feedIllstate (b : Byte) : Statement (.feedIllstate b) :=
  any_of_row (rows := rowsD) ⟨"FEED.ILLSTATE", 0x1F00#13, 0x0F00#13, .always⟩ (by simp [rowsD]) rfl (feed_mask _ b)

theorem result : Statement .result := rfl

theorem rdPayload (a : Byte) : Statement (.rdPayload a) := rfl

theorem encReset (st t y : Bool) (c : BitVec 3) : Statement (.encReset st t y c) :=
  any_of_row (rows := rowsE) ⟨"ENC.RESET", 0x40#7, 0x40#7, .always⟩ (by simp [rowsE]) rfl (by revert c; cases st <;> cases t <;> cases y <;> decide)

theorem encStartOk (y : Bool) (n : Byte) : Statement (.encStartOk y n) :=
  any_of_row (rows := rowsE) ⟨"ENC.START_OK", 0x77#7, 0x20#7, .always⟩ (by simp [rowsE]) rfl (by cases y <;> decide)

theorem encStartTooLarge (y : Bool) (n : EncLen) : Statement (.encStartTooLarge y n) :=
  any_of_row (rows := rowsE) ⟨"ENC.START_TOOLARGE", 0x77#7, 0x30#7, .always⟩ (by simp [rowsE]) rfl (by cases y <;> decide)

theorem encIdle (t y : Bool) : Statement (.encIdle t y) :=
  any_of_row (rows := rowsE) ⟨"ENC.IDLE", 0x67#7, 0x00#7, .always⟩ (by simp [rowsE]) rfl (by cases t <;> cases y <;> decide)

theorem encEmitStart (st t : Bool) : Statement (.encEmitStart st t) :=
  any_of_row (rows := rowsE) ⟨"ENC.EMIT_START", 0x4F#7, 0x09#7, .always⟩ (by simp [rowsE]) rfl (by cases st <;> cases t <;> decide)

theorem encEmitLengthNz (st t : Bool) : Statement (.encEmitLengthNz st t) :=
  any_of_row (rows := rowsE) ⟨"ENC.EMIT_LENGTH_NZ", 0x4F#7, 0x0A#7, .lenNonzero⟩ (by simp [rowsE]) rfl (by cases st <;> cases t <;> decide)

theorem encEmitLengthZ (st t : Bool) : Statement (.encEmitLengthZ st t) :=
  any_of_row (rows := rowsE) ⟨"ENC.EMIT_LENGTH_Z", 0x4F#7, 0x0A#7, .lenZero⟩ (by simp [rowsE]) rfl (by cases st <;> cases t <;> decide)

theorem encEmitPayloadMore (st t : Bool) : Statement (.encEmitPayloadMore st t) :=
  any_of_row (rows := rowsE) ⟨"ENC.EMIT_PAYLOAD_MORE", 0x4F#7, 0x0B#7, .encMore⟩ (by simp [rowsE]) rfl (by cases st <;> cases t <;> decide)

theorem encEmitPayloadLast (st t : Bool) : Statement (.encEmitPayloadLast st t) :=
  any_of_row (rows := rowsE) ⟨"ENC.EMIT_PAYLOAD_LAST", 0x4F#7, 0x0B#7, .encLast⟩ (by simp [rowsE]) rfl (by cases st <;> cases t <;> decide)

theorem encEmitChecksum (st t : Bool) : Statement (.encEmitChecksum st t) :=
  any_of_row (rows := rowsE) ⟨"ENC.EMIT_CHECKSUM", 0x4F#7, 0x0C#7, .always⟩ (by simp [rowsE]) rfl (by cases st <;> cases t <;> decide)

theorem encEmitEnd (st t : Bool) : Statement (.encEmitEnd st t) :=
  any_of_row (rows := rowsE) ⟨"ENC.EMIT_END", 0x4F#7, 0x0D#7, .always⟩ (by simp [rowsE]) rfl (by cases st <;> cases t <;> decide)

theorem encIllphase (st t y l : Bool) : Statement (.encIllphase st t y l) :=
  any_of_row (rows := rowsE) ⟨"ENC.ILLPHASE", 0x46#7, 0x06#7, .always⟩ (by simp [rowsE]) rfl (by cases st <;> cases t <;> cases y <;> cases l <;> decide)

theorem encStall (st t : Bool) (p : EncPhase) : Statement (.encStall st t p) :=
  any_of_row (rows := rowsE) ⟨"ENC.STALL", 0x48#7, 0x00#7, .always⟩ (by simp [rowsE]) rfl (by cases st <;> cases t <;> cases p <;> decide)

theorem ckClr (e : Bool) (b : Byte) : Statement (.ckClr e b) :=
  any_of_row (rows := rowsK) ⟨"CK.CLR", 0x200#10, 0x200#10, .always⟩ (by simp [rowsK]) rfl
    (by
      refine (BitVec.and_append (x₁ := 0b1#1 ++ bit e) (x₂ := 0b10#2) (y₁ := b) (y₂ := 0x00#8)).trans ?_
      have : (0b1#1 ++ bit e) &&& 0b10#2 = 0b10#2 := by cases e <;> decide
      rw [this]; simp)

theorem ckAdd (b : Byte) : Statement (.ckAdd b) :=
  any_of_row (rows := rowsK) ⟨"CK.ADD", 0x300#10, 0x100#10, .always⟩ (by simp [rowsK]) rfl
    (by
      refine (BitVec.and_append (x₁ := 0b01#2) (x₂ := 0b11#2) (y₁ := b) (y₂ := 0x00#8)).trans ?_
      have : 0b01#2 &&& 0b11#2 = 0b01#2 := by decide
      rw [this]; simp)

theorem ckHold (b : Byte) : Statement (.ckHold b) :=
  any_of_row (rows := rowsK) ⟨"CK.HOLD", 0x300#10, 0x000#10, .always⟩ (by simp [rowsK]) rfl
    (by
      refine (BitVec.and_append (x₁ := 0b00#2) (x₂ := 0b11#2) (y₁ := b) (y₂ := 0x00#8)).trans ?_
      have : 0b00#2 &&& 0b11#2 = 0b00#2 := by decide
      rw [this]; simp)

theorem encode (p : List Byte) : Statement (.encode p) := rfl

theorem cksum8 (l : List Byte) : Statement (.cksum8 l) := rfl

end MaskMatch

end Sys2Proof.Laws
end

