-- ==== Sys2Proof/Laws/Step.lean ====
section
/-! SUPPORT. What a step selects: the rows of the words a clock edge forms, and steps as the running of those rows. -/

namespace Sys2Proof.Machine

/-! ## The rows of formed words -/

/-- The row a decoder's pins select in a state (R76), by case on the pins and the state. -/
theorem decode_dispatchWordD (p : DecPins) (st : DecState) (c : SelCtx) :
    decode (.d (dispatchWordD p st)) c =
      if p.rst then .ok (.reset p.inValid st.code p.inByte)
      else if !p.inValid then .ok (.idle st.code p.inByte)
      else
        match st with
        | .awaitingStart => if p.inByte = Config.START then .ok .feedStartOk else .ok (.feedStartBad p.inByte)
        | .awaitingLength => if p.inByte = 0x00#8 then .ok .feedLenZero else .ok (.feedLenNonzero p.inByte)
        | .awaitingPayload =>
          if c.payloadMore then .ok (.feedPayloadMore p.inByte)
          else if c.payloadLast then .ok (.feedPayloadLast p.inByte)
          else .error .cursorPastLength
        | .awaitingChecksum =>
          if p.inByte = c.checksumAcc then .ok (.feedCksumOk p.inByte) else .ok (.feedCksumBad p.inByte)
        | .awaitingEnd => if p.inByte = Config.END then .ok .feedEndOk else .ok (.feedEndBad p.inByte)
        | .done => .ok (.feedDone p.inByte)
        | .failed => .ok (.feedFailed p.inByte) := by
  simp only [decode, decodeD, dispatchWordD]
  cases st <;> simp

/-- The row an encoder's pins select in a phase (R77), by case on the pins and the phase. -/
theorem decode_dispatchWordE (p : EncPins) (ph : EncPhase) (c : SelCtx) :
    decode (.e (dispatchWordE p ph) p.len) c =
      if p.rst then .ok (.encReset p.start (tooLargeBit p.len) p.outReady ph.code)
      else
        match ph with
        | .encIdle =>
          if !p.start then .ok (.encIdle (tooLargeBit p.len) p.outReady)
          else if tooLargeBit p.len then .ok (.encStartTooLarge p.outReady p.len)
          else .ok (.encStartOk p.outReady (p.len.extractLsb' 0 8))
        | .encStart =>
          if p.outReady then .ok (.encEmitStart p.start (tooLargeBit p.len))
          else .ok (.encStall p.start (tooLargeBit p.len) .encStart)
        | .encLength =>
          if !p.outReady then .ok (.encStall p.start (tooLargeBit p.len) .encLength)
          else if c.encLenR = 0x00#8 then .ok (.encEmitLengthZ p.start (tooLargeBit p.len))
          else .ok (.encEmitLengthNz p.start (tooLargeBit p.len))
        | .encPayload =>
          if !p.outReady then .ok (.encStall p.start (tooLargeBit p.len) .encPayload)
          else if c.encMore then .ok (.encEmitPayloadMore p.start (tooLargeBit p.len))
          else if c.encLast then .ok (.encEmitPayloadLast p.start (tooLargeBit p.len))
          else .error .encCursorPastLength
        | .encChecksum =>
          if p.outReady then .ok (.encEmitChecksum p.start (tooLargeBit p.len))
          else .ok (.encStall p.start (tooLargeBit p.len) .encChecksum)
        | .encEnd =>
          if p.outReady then .ok (.encEmitEnd p.start (tooLargeBit p.len))
          else .ok (.encStall p.start (tooLargeBit p.len) .encEnd) := by
  obtain ⟨h0, h3, h4, h5, h6⟩ := wordE_fields p.rst p.start (tooLargeBit p.len) p.outReady ph.code
  simp only [decode, decodeE, dispatchWordE, h0, h3, h4, h5, h6, EncPhase.ofCode_code]
  cases ph <;> simp

/-- The row a stand-alone CK8's pins select (R78). -/
theorem decode_dispatchWordK (p : CkPins) (c : SelCtx) :
    decode (.k (dispatchWordK p)) c =
      .ok (if p.clr then .ckClr p.en p.byte else if p.en then .ckAdd p.byte else .ckHold p.byte) := by
  simp [decode, decodeK, dispatchWordK]

/-- In LOOPBACK an ENC.RESET step feeds nothing (R132). -/
@[simp] theorem wiredPins_loopback_reset (p : DecPins) (e : EncPins) (s : State) (h : e.rst = true) :
    (wiredPins .loopback p e s).inValid = false := by simp [wiredPins, transfers, h]

/-- In LOOPBACK the pins other than the byte port are the caller's. -/
@[simp] theorem wiredPins_rst (w : Wiring) (p : DecPins) (e : EncPins) (s : State) : (wiredPins w p e s).rst = p.rst := by
  cases w <;> rfl

/-! ## Steps -/

/-- A whole word: its row runs. -/
theorem step_word (s : State) (w : DispatchWord) (rest : List Input) {i : Instr} (h : decode w (selCtx s) = .ok i) :
    step { s with inputs := .word w :: rest } = exec i { s with inputs := rest } := by
  have h' : decode w (selCtx { s with inputs := .word w :: rest }) = .ok i := h
  simp only [step, cycle, fetch, h', runOps_single]
  rfl

/-- A clock edge: the three selected rows run. -/
theorem step_edge (s : State) (w : Wiring) (d : DecPins) (e : EncPins) (k : CkPins) (rest : List Input)
    {is : List Instr} (h : edgeOps w d e k s = .ok is) :
    step { s with inputs := .edge w d e k :: rest } = runOps is { s with inputs := rest } := by
  have h' : edgeOps w d e k { s with inputs := .edge w d e k :: rest } = .ok is := h
  simp only [step, cycle, fetch, h']
  rfl

/-- A clock edge no row applies to is refused. -/
theorem step_edge_error (s : State) (w : Wiring) (d : DecPins) (e : EncPins) (k : CkPins) (rest : List Input)
    {x : DecodeError} (h : edgeOps w d e k s = .error x) :
    step { s with inputs := .edge w d e k :: rest } = .refused (.undecodable x) := by
  have h' : edgeOps w d e k { s with inputs := .edge w d e k :: rest } = .error x := h
  simp only [step, cycle, fetch, h']

/-- The rows of an edge, one decoding each. -/
theorem edgeOps_eq_ok {w : Wiring} {d : DecPins} {e : EncPins} {k : CkPins} {s : State} {is : List Instr} :
    edgeOps w d e k s = .ok is ↔ ∃ i j l,
      decode (.d (dispatchWordD (wiredPins w d e s) s.dec.state)) (selCtx s) = .ok i ∧
      decode (.e (dispatchWordE e s.enc.phase) e.len) (selCtx s) = .ok j ∧
      decode (.k (dispatchWordK k)) (selCtx s) = .ok l ∧ is = [i, j, l] := by
  simp only [edgeOps]
  cases decode (.d (dispatchWordD (wiredPins w d e s) s.dec.state)) (selCtx s) <;>
    cases decode (.e (dispatchWordE e s.enc.phase) e.len) (selCtx s) <;>
    cases decode (.k (dispatchWordK k)) (selCtx s) <;>
    simp [Bind.bind, Except.bind, Pure.pure, Except.pure, eq_comm]

/-- Everything an edge that completes can do: three rows, decoded before the step, run one after the other. -/
theorem step_edge_eq_next {s t : State} {w : Wiring} {d : DecPins} {e : EncPins} {k : CkPins} {rest : List Input}
    (h : step { s with inputs := .edge w d e k :: rest } = .next t) :
    ∃ i j l u v, decode (.d (dispatchWordD (wiredPins w d e s) s.dec.state)) (selCtx s) = .ok i ∧
      decode (.e (dispatchWordE e s.enc.phase) e.len) (selCtx s) = .ok j ∧
      decode (.k (dispatchWordK k)) (selCtx s) = .ok l ∧
      exec i { s with inputs := rest } = .next u ∧ exec j u = .next v ∧ exec l v = .next t := by
  cases hops : edgeOps w d e k s with
  | error x => rw [step_edge_error s w d e k rest hops] at h; cases h
  | ok is =>
    obtain ⟨i, j, l, hi, hj, hl, rfl⟩ := edgeOps_eq_ok.mp hops
    rw [step_edge s w d e k rest hops] at h
    obtain ⟨u, hu, h⟩ := runOps_cons_eq_next h
    obtain ⟨v, hv, h⟩ := runOps_cons_eq_next h
    rw [runOps_single] at h
    exact ⟨i, j, l, u, v, hi, hj, hl, hu, hv, h⟩

/-- An encoder with nothing driven holds. -/
theorem exec_quiet_encoder (s : State) (c : SelCtx) :
    ∃ j, decode (.e (dispatchWordE EncPins.quiet s.enc.phase) EncPins.quiet.len) c = .ok j ∧
      ∀ u : State, u.enc.phase = s.enc.phase → exec j u = .next u := by
  have ht : tooLargeBit EncPins.quiet.len = false := rfl
  rw [decode_dispatchWordE, ht]
  cases hp : s.enc.phase <;>
    refine ⟨_, rfl, fun u hu => ?_⟩ <;>
    simp [exec, execEncIdle, execEncStall, onlyIf, selected, hu]

/-- A stand-alone CK8 with nothing driven holds. -/
theorem exec_quiet_ck (s : State) (c : SelCtx) :
    ∃ l, decode (.k (dispatchWordK CkPins.quiet)) c = .ok l ∧ exec l s = .next s :=
  ⟨_, decode_dispatchWordK _ _, rfl⟩

/-- The operations of the decoder leave the encoder as it was. -/
theorem decoder_row_keeps_enc {i : Instr} {s t : State} (hf : i.format = .d) (h : exec i s = .next t) : t.enc = s.enc := by
  obtain ⟨-, rfl⟩ := exec_next_iff.mp h
  cases i <;> first
    | (simp [effect, appended]; done)
    | (simp [Instr.format] at hf)

/-- The row a decoder's word selects is a row of format D. -/
theorem format_of_decodeD {w : BitVec 13} {c : SelCtx} {i : Instr} (h : decode (.d w) c = .ok i) : i.format = .d := by
  simp only [decode, decodeD] at h
  repeat' split at h
  all_goals first
    | (cases h; rfl)
    | (simp at h)

/-- A line of the decoder (R83): its row runs, everything else holds. -/
theorem step_decLine (s : State) (p : DecPins) (rest : List Input) {i : Instr} {t : State}
    (hd : decode (.d (dispatchWordD p s.dec.state)) (selCtx s) = .ok i)
    (h : exec i { s with inputs := rest } = .next t) :
    step { s with inputs := decLine p :: rest } = .next t := by
  obtain ⟨j, hj, hold⟩ := exec_quiet_encoder s (selCtx s)
  obtain ⟨l, hl, hck⟩ := exec_quiet_ck t (selCtx s)
  have henc := decoder_row_keeps_enc (format_of_decodeD hd) h
  rw [decLine, step_edge s .driven p EncPins.quiet CkPins.quiet rest
    (edgeOps_eq_ok.mpr ⟨i, j, l, hd, hj, hl, rfl⟩), runOps_cons_of_next h, runOps_cons_of_next (hold t (by rw [henc])),
    runOps_cons_of_next hck, runOps_nil]

/-- A line of the encoder (R83): its row runs, everything else holds. -/
theorem step_encLine (s : State) (p : EncPins) (rest : List Input) {j : Instr} {t : State}
    (he : decode (.e (dispatchWordE p s.enc.phase) p.len) (selCtx s) = .ok j)
    (h : exec j { s with inputs := rest } = .next t) :
    step { s with inputs := encLine p :: rest } = .next t := by
  obtain ⟨l, hl, hck⟩ := exec_quiet_ck t (selCtx s)
  have hd : decode (.d (dispatchWordD DecPins.quiet s.dec.state)) (selCtx s) =
      .ok (.idle s.dec.state.code 0x00#8) := by rw [decode_dispatchWordD]; rfl
  rw [encLine, step_edge s .driven DecPins.quiet p CkPins.quiet rest
    (edgeOps_eq_ok.mpr ⟨_, j, l, hd, he, hl, rfl⟩), runOps_cons_of_next (t := { s with inputs := rest }) rfl,
    runOps_cons_of_next h, runOps_cons_of_next hck, runOps_nil]

end Sys2Proof.Machine
end

