-- ==== Sys2Proof/Laws/Run.lean ====
section
/-! SUPPORT. Runs of several steps, one step at a time: what a proof about a program of 30_encoding.md R84 goes by. -/

namespace Sys2Proof.Safety

open Sys2Proof.Machine

@[simp] theorem runSteps_zero (s : State) : runSteps 0 s = .next s := rfl

/-- A run goes on from the state its first step answers. -/
theorem runSteps_succ {s t : State} (n : Nat) (h : step s = .next t) : runSteps (n + 1) s = runSteps n t := by
  have h' : core.step s = .next t := h
  simp only [runSteps, Host.Core.run, h']
  rfl

/-- Two runs one after the other. -/
theorem runSteps_add {m n : Nat} {s t : State} (h : runSteps m s = .next t) : runSteps (m + n) s = runSteps n t := by
  induction m generalizing s with
  | zero => rw [runSteps_zero, Host.Outcome.next.injEq] at h; rw [h, Nat.zero_add]
  | succ m ih =>
    cases hs : step s with
    | next u =>
      rw [runSteps_succ m hs] at h
      rw [Nat.add_right_comm, runSteps_succ _ hs, ih h]
    | fault f => have h' : core.step s = .fault f := hs; simp [runSteps, Host.Core.run, h'] at h
    | refused r => have h' : core.step s = .refused r := hs; simp [runSteps, Host.Core.run, h'] at h

/-- A payload presented while the encoder is idle: the source holds it, nothing else happens (log 9). -/
theorem step_present (s : State) (p : List Byte) (rest : List Input) (h : s.enc.phase = .encIdle) :
    step { s with inputs := .present p :: rest } = .next { s with payloadSrc := sourceOf p, inputs := rest } := by
  have hb : encBusy { s with inputs := .present p :: rest } = false := by simp [encBusy, outValid, h]
  simp only [step, cycle, fetch, hb, Bool.false_eq_true, if_false]
  rfl

/-- The length on the port is the payload's own up to 65535 (log 20). -/
theorem startLength_toNat (p : List Byte) : (startLength p).toNat = min p.length 65535 := by
  simp only [startLength, BitVec.toNat_ofNat]
  omega

end Sys2Proof.Safety
end

