-- ==== Sys2Proof/Tests/Slice0.lean ====
section
/-! SUPPORT. Tests. Every expected value is taken from spec/: patterns from 30_encoding.md R76 to R78, vectors V1 to V36 and programs
P1 to P6 from 95_test_vectors.md, examples from the rules named. The last part gives, for each statement with hypotheses, a state
and operands that meet them. -/

namespace Sys2Proof.Tests

open Sys2Proof.Machine Sys2Proof.Safety

/-! ## Helpers -/

/-- Whether a step answered a next state of which `p` holds. -/
def nextIs (r : Result) (p : State → Bool) : Bool :=
  match r with
  | .next t => p t
  | .fault _ => false
  | .refused _ => false

/-- Whether a step was refused for the reason `x`. -/
def refusedAs (r : Result) (x : Refusal) : Bool :=
  match r with
  | .next _ => false
  | .fault _ => false
  | .refused y => decide (y = x)

/-- A decoder in state `st` with `declared_length`, `write_cursor` and `checksum_acc` given, the buffer holding `l`. -/
def decAt (st : DecState) (dl wc acc : Byte) (fc : Bool := false) (l : List Byte := []) : State :=
  { State.reset with dec := ⟨st, dl, wc, acc, fc, memFrom 0 l⟩ }

/-- An encoder in phase `ph` with its registers given, the payload source holding `p`. -/
def encAt (ph : EncPhase) (len cur acc : Byte) (err : Bool := false) (p : List Byte := []) : State :=
  { State.reset with enc := ⟨ph, len, cur, acc, err⟩, payloadSrc := sourceOf p }

/-- One step with this input. -/
def stepOn (i : Input) (s : State) : Result := step { s with inputs := [i] }

/-- A payload of `n` bytes. -/
theorem length_long (n : Nat) (b : Byte) : (List.replicate n b).length = n := by simp

/-- A payload of `n` bytes has a frame while `n` is at most 255, and none above. -/
theorem frame_of_length (n : Nat) (h : n ≤ 255) :
    encodeFrame (List.replicate n 0x41#8) = .bytes (frameBytes (List.replicate n 0x41#8)) := by
  simp [encodeFrame, h]
theorem no_frame_of_length (n : Nat) (h : 255 < n) : encodeFrame (List.replicate n 0x00#8) = .payloadTooLarge := by
  simp [encodeFrame, h]

/-- The row a word selects. -/
def reads (w : DispatchWord) (c : SelCtx) : Option Instr := (decode w c).toOption

/-- The registers in the middle of the payload of P1, in both blocks. -/
def midCtx : SelCtx := ⟨0x01#8, 0x03#8, 0x41#8, 0x03#8, 0x01#8⟩
/-- The registers before the last payload byte of P1, in both blocks. -/
def lastCtx : SelCtx := ⟨0x02#8, 0x03#8, 0x83#8, 0x03#8, 0x02#8⟩

/-! ## Well-formedness: one ill-formed term for each check -/

theorem test_wf_feedStartBad : (Instr.feedStartBad 0x02#8).wf = false ∧ (Instr.feedStartBad 0x03#8).wf = true := by decide
theorem test_wf_feedLenNonzero : (Instr.feedLenNonzero 0x00#8).wf = false ∧ (Instr.feedLenNonzero 0x01#8).wf = true := by
  decide
theorem test_wf_feedEndBad : (Instr.feedEndBad 0x03#8).wf = false ∧ (Instr.feedEndBad 0x02#8).wf = true := by decide
theorem test_wf_encStartTooLarge :
    (Instr.encStartTooLarge false 0x00FF#16).wf = false ∧ (Instr.encStartTooLarge false 0x0100#16).wf = true := by decide
theorem test_wf_encStall : (Instr.encStall false false .encIdle).wf = false ∧ (Instr.encStall false false .encEnd).wf = true := by
  decide

/-! ## Decoding: words written out bit by bit from the patterns -/

theorem test_decode_reset : reads (.d 0b1101000000010#13) midCtx = some (.reset true 0b010#3 0x02#8) := by decide
theorem test_decode_idle : reads (.d 0b0001000000000#13) midCtx = some (.idle 0b010#3 0x00#8) := by decide
theorem test_decode_feedStartOk : reads (.d 0b0100000000010#13) midCtx = some .feedStartOk := by decide
theorem test_decode_feedStartBad : reads (.d 0b0100001010101#13) midCtx = some (.feedStartBad 0x55#8) := by decide
theorem test_decode_feedLenZero : reads (.d 0b0100100000000#13) midCtx = some .feedLenZero := by decide
theorem test_decode_feedLenNonzero : reads (.d 0b0100100000011#13) midCtx = some (.feedLenNonzero 0x03#8) := by decide
theorem test_decode_feedPayloadMore : reads (.d 0b0101001000010#13) midCtx = some (.feedPayloadMore 0x42#8) := by decide
theorem test_decode_feedPayloadLast : reads (.d 0b0101001000011#13) lastCtx = some (.feedPayloadLast 0x43#8) := by decide
theorem test_decode_feedCksumOk : reads (.d 0b0101110000011#13) lastCtx = some (.feedCksumOk 0x83#8) := by decide
theorem test_decode_feedCksumBad : reads (.d 0b0101110000010#13) lastCtx = some (.feedCksumBad 0x82#8) := by decide
theorem test_decode_feedEndOk : reads (.d 0b0110000000011#13) midCtx = some .feedEndOk := by decide
theorem test_decode_feedEndBad : reads (.d 0b0110000000100#13) midCtx = some (.feedEndBad 0x04#8) := by decide
theorem test_decode_feedDone : reads (.d 0b0110100000010#13) midCtx = some (.feedDone 0x02#8) := by decide
theorem test_decode_feedFailed : reads (.d 0b0111000000011#13) midCtx = some (.feedFailed 0x03#8) := by decide
theorem test_decode_feedIllstate : reads (.d 0b0111100000001#13) midCtx = some (.feedIllstate 0x01#8) := by decide
theorem test_decode_encReset : reads (.e 0b1001100#7 0x0000#16) midCtx = some (.encReset false false true 0b100#3) := by
  decide
theorem test_decode_encStartOk : reads (.e 0b0100000#7 0x00FF#16) midCtx = some (.encStartOk false 0xFF#8) := by decide
theorem test_decode_encStartTooLarge :
    reads (.e 0b0110000#7 0x0100#16) midCtx = some (.encStartTooLarge false 0x0100#16) := by decide
theorem test_decode_encIdle : reads (.e 0b0001000#7 0x0000#16) midCtx = some (.encIdle false true) := by decide
theorem test_decode_encEmitStart : reads (.e 0b0001001#7 0x0000#16) midCtx = some (.encEmitStart false false) := by decide
theorem test_decode_encEmitLengthNz : reads (.e 0b0001010#7 0x0000#16) midCtx = some (.encEmitLengthNz false false) := by
  decide
theorem test_decode_encEmitLengthZ :
    reads (.e 0b0001010#7 0x0000#16) { midCtx with encLenR := 0x00#8 } = some (.encEmitLengthZ false false) := by decide
theorem test_decode_encEmitPayloadMore :
    reads (.e 0b0001011#7 0x0000#16) midCtx = some (.encEmitPayloadMore false false) := by decide
theorem test_decode_encEmitPayloadLast :
    reads (.e 0b0001011#7 0x0000#16) lastCtx = some (.encEmitPayloadLast false false) := by decide
theorem test_decode_encEmitChecksum : reads (.e 0b0001100#7 0x0000#16) midCtx = some (.encEmitChecksum false false) := by
  decide
theorem test_decode_encEmitEnd : reads (.e 0b0101101#7 0x0005#16) midCtx = some (.encEmitEnd true false) := by decide
theorem test_decode_encIllphase : reads (.e 0b0000111#7 0x0000#16) midCtx = some (.encIllphase false false false true) := by
  decide
theorem test_decode_encStall : reads (.e 0b0100011#7 0x0005#16) midCtx = some (.encStall true false .encPayload) := by decide
theorem test_decode_ckClr : reads (.k 0b1111111111#10) midCtx = some (.ckClr true 0xFF#8) := by decide
theorem test_decode_ckAdd : reads (.k 0b0101000001#10) midCtx = some (.ckAdd 0x41#8) := by decide
theorem test_decode_ckHold : reads (.k 0b0001011010#10) midCtx = some (.ckHold 0x5A#8) := by decide
theorem test_decode_operands : reads .result midCtx = some .result ∧ reads (.rdPayload 0x02#8) midCtx = some (.rdPayload 0x02#8) ∧
    reads (.encode [0x41#8]) midCtx = some (.encode [0x41#8]) ∧ reads (.cksum8 []) midCtx = some (.cksum8 []) := by decide

/-- The words that no row applies to are refused by name (R76, R77, R142). -/
theorem test_decode_refusals :
    reads (.d 0x0A00#13) { midCtx with declaredLength := 0x01#8 } = none ∧
    reads (.e 0x0B#7 0x0000#16) { midCtx with encLenR := 0x01#8 } = none ∧ reads (.e 0x30#7 0x00FF#16) midCtx = none := by
  decide

/-- The masks and matches of opcode_table.json, bits numbered as there. -/
theorem test_tableWord :
    decodeTableWord 13 0x0802 = some .feedStartOk ∧ decodeTableWord 7 0x30 = some (.encStartTooLarge false 0x0100#16) ∧
    decodeTableWord 10 0x141 = some (.ckAdd 0x41#8) ∧ decodeTableWord 16 0x0C03 = some .feedEndOk ∧
    decodeTableWord 16 0x0200 = some (.ckClr false 0x00#8) ∧ decodeTableWord 8 0x0D = some (.encEmitEnd false false) := by decide

/-! ## One step each -/

/-- V1, V2, V6, V7. -/
theorem test_ckAdd : nextIs (stepOn (lineCkAdd 0x43#8) { State.reset with ck := 0x83#8 }) (fun t => t.ck == 0xC6#8) ∧
    nextIs (stepOn (lineCkAdd 0x01#8) { State.reset with ck := 0xFF#8 }) (fun t => t.ck == 0x00#8) := by decide
theorem test_ckClr : nextIs (stepOn (ckLine ⟨true, true, 0xFF#8⟩) { State.reset with ck := 0x5A#8 }) (fun t => t.ck == 0x00#8) := by
  decide
theorem test_ckHold : nextIs (stepOn lineCkHold { State.reset with ck := 0x5A#8 }) (fun t => t.ck == 0x5A#8) := by decide
/-- V8a, V8b, V8d, V8e. -/
theorem test_cksum8 : cksum8Of [] = 0x00#8 ∧ cksum8Of [0x41#8, 0x42#8, 0x43#8] = 0xC6#8 ∧
    cksum8Of [0x58#8, 0x59#8] = 0xB1#8 ∧ cksum8Of [0xFF#8, 0x01#8, 0x80#8, 0x80#8] = 0x00#8 := by decide
theorem test_cksum8_answer : nextIs (stepOn (.word (.cksum8 [0x43#8, 0x41#8, 0x42#8])) State.reset)
    (fun t => t.reads == [.cksum 0xC6#8]) := by decide

/-- V14b and its "Command word with both": CW = 0x302. -/
theorem test_reset : nextIs (stepOn (decLine ⟨true, true, 0x02#8⟩) (decAt .awaitingPayload 0x05#8 0x02#8 0x03#8 false [0x01#8, 0x02#8]))
    (fun t => t.dec.state == .awaitingStart && t.dec.declaredLength == 0x00#8 && t.dec.writeCursor == 0x00#8 &&
      t.dec.checksumAcc == 0x00#8) := by decide
/-- RESET does not erase the cells (R41). -/
theorem test_reset_keeps_cells :
    nextIs (stepOn lineReset (decAt .failed 0x02#8 0x02#8 0xB1#8 true [0x58#8, 0x59#8]))
      (fun t => memRead t.dec.buffer 1 == some 0x59#8 && !t.dec.failCause && logicalContents t.dec == []) := by decide
/-- P4, row 6. -/
theorem test_idle : nextIs (stepOn lineIdle (decAt .awaitingPayload 0x04#8 0x02#8 0x00#8))
    (fun t => t.dec == (decAt .awaitingPayload 0x04#8 0x02#8 0x00#8).dec) := by decide
/-- P1, row 2. -/
theorem test_feedStartOk : nextIs (stepOn (lineFeed 0x02#8) State.reset) (fun t => t.dec.state == .awaitingLength) := by decide
/-- V10. -/
theorem test_feedStartBad : nextIs (stepOn (lineFeed 0x55#8) State.reset)
    (fun t => t.dec.state == .failed && verdict t.dec == .malformed && t.dec.writeCursor == 0x00#8) := by decide
/-- P2, row 10. -/
theorem test_feedLenZero : nextIs (stepOn (lineFeed 0x00#8) (decAt .awaitingLength 0x00#8 0x00#8 0x00#8))
    (fun t => t.dec.state == .awaitingChecksum && t.dec.declaredLength == 0x00#8) := by decide
/-- V18: a LENGTH of 0x02 is a length. -/
theorem test_feedLenNonzero : nextIs (stepOn (lineFeed 0x02#8) (decAt .awaitingLength 0x00#8 0x00#8 0x00#8))
    (fun t => t.dec.state == .awaitingPayload && t.dec.declaredLength == 0x02#8 && t.dec.checksumAcc == 0x00#8) := by decide
/-- P4, row 5: the sum wraps. -/
theorem test_feedPayloadMore : nextIs (stepOn (lineFeed 0x01#8) (decAt .awaitingPayload 0x04#8 0x01#8 0xFF#8 false [0xFF#8]))
    (fun t => t.dec.state == .awaitingPayload && t.dec.writeCursor == 0x02#8 && t.dec.checksumAcc == 0x00#8 &&
      t.dec.buffer == [(0, 0xFF#8), (1, 0x01#8)]) := by decide
/-- V23: the last write goes to cell 254 and leaves the cursor at 255. -/
theorem test_feedPayloadLast : nextIs (stepOn (lineFeed 0xFE#8) (decAt .awaitingPayload 0xFF#8 0xFE#8 0x83#8))
    (fun t => t.dec.state == .awaitingChecksum && t.dec.writeCursor == 0xFF#8 && t.dec.checksumAcc == 0x81#8 &&
      t.dec.buffer == [(254, 0xFE#8)]) := by decide
/-- P1, row 7, and its neighbour of section 4. -/
theorem test_feedCksumOk : nextIs (stepOn (lineFeed 0xC6#8) (decAt .awaitingChecksum 0x03#8 0x03#8 0xC6#8))
    (fun t => t.dec.state == .awaitingEnd) := by decide
theorem test_feedCksumBad : nextIs (stepOn (lineFeed 0xC5#8) (decAt .awaitingChecksum 0x03#8 0x03#8 0xC6#8))
    (fun t => t.dec.state == .failed && t.dec.failCause && verdict t.dec == .checksumMismatch) := by decide
/-- P1, row 8. -/
theorem test_feedEndOk : nextIs (stepOn (lineFeed 0x03#8) (decAt .awaitingEnd 0x03#8 0x03#8 0xC6#8))
    (fun t => t.dec.state == .done && verdict t.dec == .complete && payloadLen t.dec == 0x03#8) := by decide
/-- V11b. -/
theorem test_feedEndBad : nextIs (stepOn (lineFeed 0x02#8) (decAt .awaitingEnd 0x01#8 0x01#8 0x10#8))
    (fun t => t.dec.state == .failed && verdict t.dec == .malformed) := by decide
/-- V15 and V16: the terminal states absorb. -/
theorem test_feedDone : nextIs (stepOn (lineFeed 0x02#8) (decAt .done 0x00#8 0x00#8 0x00#8))
    (fun t => t.dec == (decAt .done 0x00#8 0x00#8 0x00#8).dec) := by decide
theorem test_feedFailed : nextIs (stepOn (lineFeed 0x03#8) (decAt .failed 0x02#8 0x02#8 0xB1#8 true))
    (fun t => t.dec == (decAt .failed 0x02#8 0x02#8 0xB1#8 true).dec) := by decide
theorem test_feedIllstate : refusedAs (stepOn (.word (.d 0x0F00#13)) State.reset) .illegalStateCode := by decide
/-- P1, end. -/
theorem test_result : nextIs (stepOn lineResult (decAt .done 0x03#8 0x03#8 0xC6#8 false [0x41#8, 0x42#8, 0x43#8]))
    (fun t => t.reads == [.result .complete 0x03#8 [0x41#8, 0x42#8, 0x43#8]]) := by decide
/-- V17, after the frame. -/
theorem test_rdPayload :
    nextIs (stepOn (.word (.rdPayload 0x02#8)) (decAt .done 0x04#8 0x04#8 0x0A#8 false [0x02#8, 0x03#8, 0x02#8, 0x03#8]))
      (fun t => t.reads == [.rdPayload 0x02#8 0x04#8 0x02#8]) := by decide
/-- Outside the window the read completes and changes nothing of the hardware (R117). -/
theorem test_rdPayload_outside :
    nextIs (stepOn (.word (.rdPayload 0x03#8)) (decAt .done 0x03#8 0x03#8 0xC6#8))
      (fun t => t.dec == (decAt .done 0x03#8 0x03#8 0xC6#8).dec && t.draws == 1) := by decide

/-- V36: no byte is transferred. -/
theorem test_encReset : nextIs (stepOn (encLine ⟨true, false, 0x0000#16, true⟩) (encAt .encChecksum 0x03#8 0x03#8 0xC6#8))
    (fun t => t.enc == Encoder.initial && t.wire == []) := by decide
/-- R132 and D30: in LOOPBACK an ENC.RESET step feeds nothing, though `out_valid = out_ready = 1` (R192: still Pending). -/
theorem test_loopback_encReset :
    nextIs (stepOn (.edge .loopback DecPins.quiet ⟨true, false, 0x0000#16, true⟩ CkPins.quiet)
      { encAt .encEnd 0x00#8 0x00#8 0x00#8 with dec := (decAt .awaitingEnd 0x00#8 0x00#8 0x00#8).dec })
      (fun t => t.dec.state == .awaitingEnd && t.enc == Encoder.initial && t.wire == []) := by decide
/-- R84: without it the byte is fed in the step it is transferred. -/
theorem test_loopback_feeds :
    nextIs (stepOn loopStep { encAt .encEnd 0x00#8 0x00#8 0x00#8 with dec := (decAt .awaitingEnd 0x00#8 0x00#8 0x00#8).dec })
      (fun t => t.dec.state == .done && t.wire == [⟨0x03#8, true⟩]) := by decide
/-- V33. -/
theorem test_encStartOk : nextIs (stepOn (lineEncStart 0x00FF#16) (encAt .encIdle 0x03#8 0x03#8 0xC6#8 true))
    (fun t => t.enc == ⟨.encStart, 0xFF#8, 0x00#8, 0x00#8, false⟩ && t.wire == []) := by decide
/-- V31, V32. -/
theorem test_encStartTooLarge : nextIs (stepOn (lineEncStart 0x0100#16) State.reset)
      (fun t => t.enc == { Encoder.initial with err := true }) ∧
    nextIs (stepOn (lineEncStart 0xFFFF#16) State.reset) (fun t => t.enc == { Encoder.initial with err := true }) := by decide
/-- P6, row 2. -/
theorem test_encIdle : nextIs (stepOn lineEncWait (encAt .encIdle 0x00#8 0x00#8 0x00#8 true)) (fun t => t.enc.err) := by decide
/-- P3. -/
theorem test_encEmitStart : nextIs (stepOn lineEncStep (encAt .encStart 0x03#8 0x00#8 0x00#8))
    (fun t => t.enc.phase == .encLength && t.wire == [⟨0x02#8, false⟩]) := by decide
theorem test_encEmitLengthNz : nextIs (stepOn lineEncStep (encAt .encLength 0x03#8 0x00#8 0x00#8))
    (fun t => t.enc.phase == .encPayload && t.wire == [⟨0x03#8, false⟩]) := by decide
/-- P6, row 12. -/
theorem test_encEmitLengthZ : nextIs (stepOn lineEncStep (encAt .encLength 0x00#8 0x00#8 0x00#8))
    (fun t => t.enc.phase == .encChecksum && t.wire == [⟨0x00#8, false⟩]) := by decide
theorem test_encEmitPayloadMore :
    nextIs (stepOn lineEncStep (encAt .encPayload 0x03#8 0x01#8 0x41#8 false [0x41#8, 0x42#8, 0x43#8]))
      (fun t => t.enc == ⟨.encPayload, 0x03#8, 0x02#8, 0x83#8, false⟩ && t.wire == [⟨0x42#8, false⟩]) := by decide
theorem test_encEmitPayloadLast :
    nextIs (stepOn lineEncStep (encAt .encPayload 0x03#8 0x02#8 0x83#8 false [0x41#8, 0x42#8, 0x43#8]))
      (fun t => t.enc == ⟨.encChecksum, 0x03#8, 0x03#8, 0xC6#8, false⟩ && t.wire == [⟨0x43#8, false⟩]) := by decide
theorem test_encEmitChecksum : nextIs (stepOn lineEncStep (encAt .encChecksum 0x03#8 0x03#8 0xC6#8))
    (fun t => t.enc.phase == .encEnd && t.wire == [⟨0xC6#8, false⟩]) := by decide
/-- V35: the start beside it is ignored. -/
theorem test_encEmitEnd : nextIs (stepOn (encLine ⟨false, true, 0x0005#16, true⟩) (encAt .encEnd 0x03#8 0x03#8 0xC6#8))
    (fun t => t.enc == ⟨.encIdle, 0x03#8, 0x03#8, 0xC6#8, false⟩ && t.wire == [⟨0x03#8, true⟩]) := by decide
/-- V34. -/
theorem test_encStall : nextIs (stepOn (encLine ⟨false, true, 0x0005#16, false⟩) (encAt .encPayload 0x03#8 0x01#8 0x41#8))
    (fun t => t.enc == ⟨.encPayload, 0x03#8, 0x01#8, 0x41#8, false⟩ && t.wire == []) := by decide
theorem test_encIllphase : refusedAs (stepOn (.word (.e 0x06#7 0x0000#16)) State.reset) .illegalPhaseCode := by decide
/-- V20, V30. -/
theorem test_encode : nextIs (stepOn (.word (.encode [0x41#8, 0x42#8, 0x43#8])) State.reset)
    (fun t => t.reads == [.encoded (.bytes [0x02#8, 0x03#8, 0x41#8, 0x42#8, 0x43#8, 0xC6#8, 0x03#8])]) := by decide
theorem test_encode_tooLarge : encodeFrame (List.replicate 256 0x00#8) = .payloadTooLarge :=
  no_frame_of_length 256 (by decide)

/-- The interface's placing: the very next step after reset runs the word. -/
theorem test_withFetchWord :
    nextIs (step (State.reset.withFetchWord 13 0x0A80)) (fun t => t.dec.writeCursor == 0x01#8 && t.dec.checksumAcc == 0x80#8) ∧
    nextIs (step (State.reset.withFetchWord 7 0x0D)) (fun t => t.wire == [⟨0x03#8, true⟩]) := by decide
/-- A row whose condition does not hold is not performed (log 5). -/
theorem test_rowNotSelected : refusedAs (exec .feedEndOk State.reset) .rowNotSelected := by decide
/-- R190: the payload source may not change during an ENCODE. -/
theorem test_payloadChanged : refusedAs (stepOn (.present [0x41#8]) (encAt .encStart 0x03#8 0x00#8 0x00#8)) .payloadChanged := by
  decide
/-! ## Witnesses: for each statement with hypotheses, operands and a state that meet them all, at the ends of each clause's range -/

/-- The decoder in the middle of a frame, `write_cursor = wc` of `dl`. -/
def payloadAt (dl wc : Byte) : State := decAt .awaitingPayload dl wc 0x00#8

/-- The row completes in the state. -/
def runs (i : Instr) (s : State) : Prop := ∃ t, exec i s = .next t

theorem witness_ChecksumOfAList :
    [0x01#8, 0x02#8].Perm [0x02#8, 0x01#8] ∧ (1 < [0x01#8, 0x02#8].length ∧ [0x01#8, 0x02#8][1]? ≠ some 0x03#8) ∧
    (List.replicate 255 (0x00#8 : Byte)).length ≤ 255 := ⟨List.Perm.swap _ _ _, by decide, (length_long _ _).le⟩
theorem witness_OperationsCommandTheirChecksumUnit :
    runs (.feedPayloadLast 0x43#8) (payloadAt 0xFF#8 0xFE#8) ∧
    (runs (.ckAdd 0x41#8) State.reset ∧ (Instr.ckHold 0x00#8).format = .k ∧ reads (.k 0x141#10) midCtx = some (.ckAdd 0x41#8)) :=
  ⟨⟨_, rfl⟩, ⟨_, rfl⟩, by decide, by decide⟩
theorem witness_StartByteDecides : State.reset.dec.state = .awaitingStart ∧ (0x03#8 : Byte) ≠ 0x02#8 := by decide
theorem witness_LengthByteIsLatched :
    (decAt .awaitingLength 0x00#8 0x00#8 0x00#8).dec.state = .awaitingLength ∧ (0x01#8 : Byte) ≠ 0x00#8 ∧
    (0xFF#8 : Byte) ≠ 0x00#8 := by decide
theorem witness_PayloadByteIsAppended :
    ((payloadAt 0x02#8 0x00#8).dec.state = .awaitingPayload ∧
      (payloadAt 0x02#8 0x00#8).dec.writeCursor.toNat + 1 < (payloadAt 0x02#8 0x00#8).dec.declaredLength.toNat) ∧
    (payloadAt 0xFF#8 0xFD#8).dec.writeCursor.toNat + 1 < (payloadAt 0xFF#8 0xFD#8).dec.declaredLength.toNat := by decide
theorem witness_LastPayloadByteEndsTheField :
    ((payloadAt 0x01#8 0x00#8).dec.state = .awaitingPayload ∧
      (payloadAt 0x01#8 0x00#8).dec.writeCursor.toNat + 1 = (payloadAt 0x01#8 0x00#8).dec.declaredLength.toNat) ∧
    (payloadAt 0xFF#8 0xFE#8).dec.writeCursor.toNat + 1 = (payloadAt 0xFF#8 0xFE#8).dec.declaredLength.toNat := by decide
theorem witness_ChecksumByteDecides :
    (decAt .awaitingChecksum 0x03#8 0x03#8 0xC6#8).dec.state = .awaitingChecksum ∧
    0xC6#8 = (decAt .awaitingChecksum 0x03#8 0x03#8 0xC6#8).dec.checksumAcc ∧
    0xC5#8 ≠ (decAt .awaitingChecksum 0x03#8 0x03#8 0xC6#8).dec.checksumAcc := by decide
theorem witness_EndByteDecides :
    (decAt .awaitingEnd 0x03#8 0x03#8 0xC6#8).dec.state = .awaitingEnd ∧ (0x02#8 : Byte) ≠ 0x03#8 ∧
    (0x02#8 : Byte).toNat < (decAt .awaitingEnd 0x03#8 0x03#8 0xC6#8).dec.declaredLength.toNat := by decide
theorem witness_TerminalStatesAbsorbEveryByte :
    (decAt .done 0x03#8 0x03#8 0xC6#8).dec.state = .done ∧ (decAt .failed 0x03#8 0x03#8 0xC6#8 true).dec.state = .failed := by
  decide
theorem witness_VerdictFollowsStateAndCause :
    (State.reset.dec.state ≠ .done ∧ State.reset.dec.state ≠ .failed) ∧ (decAt .done 0x00#8 0x00#8 0x00#8).dec.state = .done ∧
    (∀ fc, (decAt .failed 0x00#8 0x00#8 0x00#8 fc).dec.state = .failed ∧
      (decAt .failed 0x00#8 0x00#8 0x00#8 fc).dec.failCause = fc) ∧ runs (.reset false 0b000#3 0x00#8) State.reset :=
  ⟨by decide, by decide, fun _ => ⟨rfl, rfl⟩, _, rfl⟩
theorem witness_ReadPortInsideItsWindow :
    (decAt .done 0x01#8 0x01#8 0x5A#8 false [0x5A#8]).dec.state = .done ∧
    (∀ v c b, Instr.feedDone 0x02#8 ≠ .reset v c b) ∧
    runs (.feedDone 0x02#8) (decAt .done 0x01#8 0x01#8 0x5A#8 false [0x5A#8]) ∧
    runs (.rdPayload 0x00#8) (decAt .done 0x01#8 0x01#8 0x5A#8 false [0x5A#8]) :=
  ⟨rfl, by simp, ⟨_, rfl⟩, _, rfl⟩
theorem witness_ReadingOperationsAnswer :
    rdData (decAt .done 0x01#8 0x01#8 0x5A#8 false [0x5A#8]).dec 0x00#8 = some 0x5A#8 ∧
    rdData (decAt .done 0x01#8 0x01#8 0x5A#8 false [0x5A#8]).dec 0x01#8 = none ∧ rdData State.reset.dec 0x00#8 = none := by
  decide
theorem witness_FeedStepIsOneFunction : Inv3 (payloadAt 0xFF#8 0xFE#8).dec ∧ Inv3 (payloadAt 0x01#8 0x00#8).dec :=
  ⟨fun _ => by decide, fun _ => by decide⟩
theorem witness_FeedFollowsTheClassMatrix : Inv3 (payloadAt 0x01#8 0x00#8).dec ∧
    ∃ t, step { payloadAt 0x01#8 0x00#8 with inputs := lineFeed 0x02#8 :: [] } = .next t := ⟨fun _ => by decide, _, rfl⟩
theorem witness_EncStartLatchesTheLength : State.reset.enc.phase = .encIdle := by decide
theorem witness_EncStartRefusesLongPayloads :
    255 < (0x0100#16).toNat ∧ 255 < (0xFFFF#16).toNat ∧ State.reset.enc.phase = .encIdle := by decide
theorem witness_EncWaitsWithoutChange :
    State.reset.enc.phase = .encIdle ∧ EncPhase.encStart ≠ .encIdle ∧ EncPhase.encEnd ≠ .encIdle ∧
    (encAt .encEnd 0x03#8 0x03#8 0xC6#8).enc.phase = .encEnd := by decide
theorem witness_EncEmitsStartAndLength :
    (encAt .encStart 0x03#8 0x00#8 0x00#8).enc.phase = .encStart ∧
    ((encAt .encLength 0x01#8 0x00#8 0x00#8).enc.lenR ≠ 0x00#8 ∧ (encAt .encLength 0x01#8 0x00#8 0x00#8).enc.phase = .encLength) ∧
    (encAt .encLength 0x00#8 0x00#8 0x00#8).enc.lenR = 0x00#8 ∧ (encAt .encLength 0x00#8 0x00#8 0x00#8).enc.phase = .encLength := by
  decide
theorem witness_EncEmitsPayloadBytes :
    ((encAt .encPayload 0xFF#8 0xFD#8 0x00#8).enc.cursor.toNat + 1 < (encAt .encPayload 0xFF#8 0xFD#8 0x00#8).enc.lenR.toNat ∧
      (encAt .encPayload 0xFF#8 0xFD#8 0x00#8).enc.phase = .encPayload) ∧
    (encAt .encPayload 0xFF#8 0xFE#8 0x00#8).enc.cursor.toNat + 1 = (encAt .encPayload 0xFF#8 0xFE#8 0x00#8).enc.lenR.toNat ∧
    (encAt .encPayload 0xFF#8 0xFE#8 0x00#8).enc.phase = .encPayload := by decide
theorem witness_EncEmitsChecksumAndEnd :
    (encAt .encChecksum 0x03#8 0x03#8 0xC6#8).enc.phase = .encChecksum ∧ (encAt .encEnd 0x03#8 0x03#8 0xC6#8).enc.phase = .encEnd := by
  decide
theorem witness_OutputsAndTransfersFollowThePhase :
    (∀ ph, (encAt ph 0x03#8 0x03#8 0xC6#8).enc.phase = ph) ∧
    (∃ t, step { encAt .encEnd 0x03#8 0x03#8 0xC6#8 with
        inputs := .edge .driven DecPins.quiet EncPins.ready CkPins.quiet :: [] } = .next t) ∧
    (∃ t, step { encAt .encEnd 0x03#8 0x03#8 0xC6#8 with
        inputs := .edge .driven DecPins.quiet EncPins.reset CkPins.quiet :: [] } = .next t) ∧
    EncPins.ready.rst = false ∧ EncPins.reset.rst = true ∧ DecPins.quiet.rst = false ∧ EncPins.ready.outReady = true ∧ EncPins.quiet.outReady = false ∧
    outValid (encAt .encEnd 0x03#8 0x03#8 0xC6#8) = true := by
  exact ⟨fun _ => rfl, ⟨_, rfl⟩, ⟨_, rfl⟩, rfl, rfl, rfl, rfl, rfl, rfl⟩
theorem witness_StartIsIgnoredWhileBusy :
    encBusy (encAt .encStart 0x03#8 0x00#8 0x00#8) = true ∧
    ∃ t, step { encAt .encStart 0x03#8 0x00#8 0x00#8 with
      inputs := .edge .driven DecPins.quiet ⟨false, true, 0x0100#16, true⟩ CkPins.quiet :: [] } = .next t := ⟨rfl, _, rfl⟩
theorem witness_EncodeBuildsTheFrame :
    255 < (List.replicate 256 (0x00#8 : Byte)).length ∧ (List.replicate 255 (0x00#8 : Byte)).length ≤ 255 :=
  ⟨by rw [length_long]; decide, (length_long _ _).le⟩
theorem witness_EncodeIsInjectiveByPosition :
    (∃ f, encodeFrame [0x41#8] = .bytes f) ∧ (∃ f, encodeFrame (List.replicate 255 0x41#8) = .bytes f) ∧
    (2 ≤ 2 ∧ 2 ≤ [0x41#8].length + 1) := ⟨⟨_, rfl⟩, ⟨_, frame_of_length 255 (by decide)⟩, by decide⟩
theorem witness_DecodeEncodeRoundTrip :
    ((Instr.feedPayloadMore 0x42#8).wf = true ∧ (Instr.feedPayloadMore 0x42#8).registersAllow midCtx = true) ∧
    ((Instr.encEmitPayloadLast false true).wf = true ∧ (Instr.encEmitPayloadLast false true).registersAllow lastCtx = true) ∧
    (Instr.encStartTooLarge true 0x0100#16).wf = true := by decide
theorem witness_EncodeDecodeRoundTrip :
    decode (.d 0x0A42#13) midCtx = .ok (.feedPayloadMore 0x42#8) ∧ decode (.k 0x3FF#10) midCtx = .ok (.ckClr true 0xFF#8) ∧
    decode (.e 0x2D#7 0x0005#16) midCtx = .ok (.encEmitEnd true false) := ⟨rfl, rfl, rfl⟩
theorem witness_TableByPriorityIsTheDecoder :
    (0x30#7).getLsbD 4 = tooLargeBit 0x0100#16 ∧ (0x20#7).getLsbD 4 = tooLargeBit 0x00FF#16 := by decide
theorem witness_StepRunsTheDecodedWord : decode (.d 0x0802#13) (selCtx State.reset) = .ok .feedStartOk := rfl
theorem witness_StepRunsOneOperationPerBlock :
    (decode (.d (dispatchWordD (DecPins.feed 0x02#8) State.reset.dec.state)) (selCtx State.reset) = .ok .feedStartOk ∧
      decode (.e (dispatchWordE (EncPins.startOf 0x0003#16) State.reset.enc.phase) (EncPins.startOf 0x0003#16).len)
        (selCtx State.reset) = .ok (.encStartOk false 0x03#8) ∧
      decode (.k (dispatchWordK CkPins.quiet)) (selCtx State.reset) = .ok (.ckHold 0x00#8)) ∧
    encBusy State.reset = false ∧ encBusy (encAt .encStart 0x03#8 0x00#8 0x00#8) = true := ⟨⟨rfl, rfl, rfl⟩, rfl, rfl⟩
theorem witness_FetchWordRunsNext :
    tableWord 13 0x0A42 = some (.d 0x0A42#13) ∧ decodeTableWord 13 0x0A42 = some (.feedPayloadMore 0x42#8) ∧
    tableWord 0 0 = some .result ∧ decodeTableWord 0 0 = some .result := by decide
theorem witness_SelectedRowsComplete :
    selected .feedStartOk State.reset = true ∧ selected .feedEndOk State.reset = false ∧
    selected (.feedIllstate 0x00#8) State.reset = false := by decide

/-- Both blocks in the middle of a payload, one byte done. -/
def midFrame : State :=
  { encAt .encPayload 0xFF#8 0x01#8 0x41#8 false [0x41#8, 0x42#8] with
    dec := (decAt .awaitingPayload 0xFF#8 0x01#8 0x41#8 false [0x41#8]).dec }

theorem witness_EveryEdgeCompletes : Inv midFrame :=
  ⟨⟨by unfold Inv1; decide, by unfold Inv2; decide, by unfold Inv3; decide, by unfold Inv4; decide, by unfold Inv5; decide,
    by unfold Inv6; decide⟩, ⟨by decide, by decide, by decide, by decide, fun _ => by decide, by decide⟩⟩
theorem witness_StepKeepsTheInvariant :
    Inv midFrame ∧ ∃ t, step { midFrame with inputs := [] } = .next t := ⟨witness_EveryEdgeCompletes, _, rfl⟩
theorem witness_BlocksDoNotInteract :
    ((Instr.feedPayloadMore 0x42#8).format = .d ∧ (Instr.encEmitPayloadMore false false).format = .e ∧
      (Instr.ckAdd 0x01#8).format = .k) ∧ runs (.feedPayloadMore 0x42#8) midFrame ∧
    runs (.encEmitPayloadMore false false) midFrame ∧ runs (.ckAdd 0x01#8) midFrame :=
  ⟨by decide, ⟨_, rfl⟩, ⟨_, rfl⟩, ⟨_, rfl⟩⟩
theorem witness_DecoderOperationsFrame :
    ((Instr.feedPayloadMore 0x42#8).format = .d ∧ runs (.feedPayloadMore 0x42#8) midFrame) ∧
    ((Instr.reset false 0b010#3 0x00#8).format = .d ∧ runs (.reset false 0b010#3 0x00#8) midFrame) :=
  ⟨⟨rfl, _, rfl⟩, rfl, _, rfl⟩
theorem witness_EncoderOperationsFrame :
    ((Instr.encEmitPayloadMore false false).format = .e ∧ runs (.encEmitPayloadMore false false) midFrame) ∧
    ((Instr.encReset false false true 0b011#3).format = .e ∧ runs (.encReset false false true 0b011#3) midFrame) :=
  ⟨⟨rfl, _, rfl⟩, rfl, _, rfl⟩
theorem witness_OtherOperationsFrame :
    ((Instr.ckAdd 0x01#8).format = .k ∧ runs (.ckAdd 0x01#8) midFrame) ∧
    ((Instr.rdPayload 0x00#8).format = .r ∧ runs (.rdPayload 0x00#8) midFrame) ∧
    (Instr.cksum8 []).format = .function ∧ runs (.cksum8 []) midFrame := ⟨⟨rfl, _, rfl⟩, ⟨rfl, _, rfl⟩, rfl, _, rfl⟩
theorem witness_OnlyPayloadFeedsWriteTheBuffer :
    runs (.feedPayloadMore 0x42#8) midFrame ∧ runs (.feedPayloadLast 0x43#8) (payloadAt 0xFF#8 0xFE#8) ∧
    (runs .feedStartOk State.reset ∧ (∀ b, Instr.feedStartOk ≠ .feedPayloadMore b) ∧
      ∀ b, Instr.feedStartOk ≠ .feedPayloadLast b) := ⟨⟨_, rfl⟩, ⟨_, rfl⟩, ⟨_, rfl⟩, by simp, by simp⟩
theorem witness_OnlyTheNamedOperationsRaise :
    (runs (.feedStartBad 0x55#8) State.reset ∧ State.reset.dec.state ≠ .failed) ∧
    runs (.feedEndBad 0x04#8) (decAt .awaitingEnd 0x01#8 0x01#8 0x10#8) ∧
    runs (.feedCksumBad 0x00#8) (decAt .awaitingChecksum 0x02#8 0x02#8 0xB1#8) ∧
    (runs (.encStartTooLarge false 0x0100#16) State.reset ∧ State.reset.enc.err = false) :=
  ⟨⟨⟨_, rfl⟩, by decide⟩, ⟨_, rfl⟩, ⟨_, rfl⟩, ⟨_, rfl⟩, rfl⟩
theorem witness_OnlyResetLeavesATerminalState :
    ((decAt .done 0x00#8 0x00#8 0x00#8).dec.state = .done ∧ runs (.feedDone 0x02#8) (decAt .done 0x00#8 0x00#8 0x00#8)) ∧
    ((decAt .failed 0x00#8 0x00#8 0x00#8 true).dec.state = .failed ∧
      runs (.reset false 0b110#3 0x00#8) (decAt .failed 0x00#8 0x00#8 0x00#8 true)) := ⟨⟨rfl, _, rfl⟩, rfl, _, rfl⟩
theorem witness_StateGraphHasNoOtherEdges :
    exec .feedStartOk State.reset = .next { State.reset with dec := { State.reset.dec with state := .awaitingLength } } ∧
    DecState.awaitingLength ≠ State.reset.dec.state := ⟨rfl, by decide⟩
theorem witness_ResetStateValues :
    runs (.reset true 0b010#3 0x02#8) midFrame ∧ runs (.encReset false false true 0b011#3) midFrame ∧
    runs (.ckClr true 0xFF#8) midFrame := ⟨⟨_, rfl⟩, ⟨_, rfl⟩, ⟨_, rfl⟩⟩

theorem witness_DecodingAnEncodedPayloadCompletes :
    encodeFrame [] = .bytes [0x02#8, 0x00#8, 0x00#8, 0x03#8] ∧ ∃ f, encodeFrame (List.replicate 255 0x41#8) = .bytes f :=
  ⟨rfl, _, frame_of_length 255 (by decide)⟩
theorem witness_ChangedPayloadByteIsDetected :
    encodeFrame [0x41#8] = .bytes [0x02#8, 0x01#8, 0x41#8, 0x41#8, 0x03#8] ∧ 0 < [0x41#8].length ∧
    [0x41#8][0]? ≠ some 0x40#8 := by decide
theorem witness_ChangedMarkerIsDetected :
    encodeFrame [] = .bytes [0x02#8, 0x00#8, 0x00#8, 0x03#8] ∧ (0x03#8 : Byte) ≠ 0x02#8 ∧ (0x02#8 : Byte) ≠ 0x03#8 := by decide
theorem witness_ProperBeginningStaysPending :
    encodeFrame [] = .bytes [0x02#8, 0x00#8, 0x00#8, 0x03#8] ∧ 0 < 4 ∧ 3 < [0x02#8, 0x00#8, 0x00#8, 0x03#8].length := by decide
theorem witness_SerializerImplementsEncode :
    encodeFrame [] = .bytes [0x02#8, 0x00#8, 0x00#8, 0x03#8] ∧ State.reset.enc.phase = .encIdle ∧
    [false, true, true, false, true, true].count true = ([] : List Byte).length + 4 ∧
    255 < (List.replicate 256 (0x00#8 : Byte)).length ∧ 255 < (List.replicate 65536 (0x00#8 : Byte)).length :=
  ⟨by decide, by decide, by decide, by rw [length_long]; decide, by rw [length_long]; decide⟩
theorem witness_LoopbackDeliversThePayload :
    (List.replicate 255 (0x41#8 : Byte)).length ≤ 255 ∧ State.reset.enc.phase = .encIdle :=
  ⟨(length_long _ _).le, rfl⟩
theorem witness_AttemptsEndWithin259Bytes : 259 ≤ (List.replicate 259 (0x02#8 : Byte)).length :=
  (length_long _ _).ge
theorem witness_ContextsShareNothing :
    stepContext 1 [State.reset, State.reset] = .next [State.reset, State.reset] ∧ (0 : Nat) ≠ 1 ∧
    [State.reset, State.reset][1]? = some State.reset := ⟨rfl, by decide, rfl⟩

end Sys2Proof.Tests
end

section
/-! The two blocks and the stand-alone CK8 do not interact (00_scope.md R9, R12): the rows of a block read and write that block's
registers only, so rows of two different blocks commute; and what a clock edge runs. -/

namespace Sys2Proof.Machine

/-! ## The rows of a block work on its own registers -/

/-- The formats whose rows a clock edge runs: the decoder's, the encoder's and the stand-alone CK8's. -/
abbrev IsBlock (f : Format) : Prop := f = .d ∨ f = .e ∨ f = .k

/-- `s` and `t` agree on everything the rows of block `f` read; the encoder's rows read the payload source and extend the wire. -/
def SameBlock (f : Format) (s t : State) : Prop :=
  match f with
  | .d => t.dec = s.dec
  | .e => t.enc = s.enc ∧ t.payloadSrc = s.payloadSrc ∧ t.wire = s.wire
  | .k => t.ck = s.ck
  | .r | .function => False

/-- `s` with everything the rows of block `f` write taken from `u`. -/
def putBlock (f : Format) (u s : State) : State :=
  match f with
  | .d => s.setDec u.dec
  | .e => (s.setEnc u.enc).setWire u.wire
  | .k => s.setCk u.ck
  | .r | .function => s

theorem SameBlock.refl {f : Format} (hf : IsBlock f) (s : State) : SameBlock f s s := by
  obtain rfl | rfl | rfl := hf
  · exact rfl
  · exact ⟨rfl, rfl, rfl⟩
  · exact rfl

theorem sameBlock_putBlock {f g : Format} (hf : IsBlock f) (hne : f ≠ g) (u s : State) :
    SameBlock f s (putBlock g u s) := by
  obtain rfl | rfl | rfl := hf <;> cases g <;> simp [SameBlock, putBlock] at hne ⊢

theorem putBlock_comm {f g : Format} (hne : f ≠ g) (u v s : State) :
    putBlock f u (putBlock g v s) = putBlock g v (putBlock f u s) := by
  cases f <;> cases g <;> simp [putBlock, State.setDec, State.setEnc, State.setWire, State.setCk] at hne ⊢

/-- Selection and effect of a decoder row read the decoder context only, so they compute alike on any two states sharing it. -/
theorem decoder_row_local {i : Instr} {s t : State} (hf : i.format = .d) (h : t.dec = s.dec) :
    selected i t = selected i s ∧ effect i t = t.setDec (effect i s).dec := by
  cases s; cases t; cases h
  cases i <;> cases hf <;> exact ⟨rfl, rfl⟩

theorem encoder_row_local {i : Instr} {s t : State} (hf : i.format = .e) (henc : t.enc = s.enc)
    (hsrc : t.payloadSrc = s.payloadSrc) (hwire : t.wire = s.wire) :
    selected i t = selected i s ∧ effect i t = (t.setEnc (effect i s).enc).setWire (effect i s).wire := by
  cases s; cases t; cases henc; cases hsrc; cases hwire
  cases i <;> cases hf <;> exact ⟨rfl, rfl⟩

theorem ck_row_local {i : Instr} {s t : State} (hf : i.format = .k) (h : t.ck = s.ck) :
    selected i t = selected i s ∧ effect i t = t.setCk (effect i s).ck := by
  cases s; cases t; cases h
  cases i <;> cases hf <;> exact ⟨rfl, rfl⟩

/-- Where its block agrees, a row is selected alike and writes the same values, into its own block only. -/
theorem row_local {i : Instr} {s t : State} (h : SameBlock i.format s t) :
    selected i t = selected i s ∧ effect i t = putBlock i.format (effect i s) t := by
  cases hf : i.format <;> rw [hf] at h
  case d => exact decoder_row_local hf h
  case e =>
    obtain ⟨henc, hsrc, hwire⟩ := h
    exact encoder_row_local hf henc hsrc hwire
  case k => exact ck_row_local hf h
  case r | function => exact h.elim

theorem effect_eq_putBlock {i : Instr} (hi : IsBlock i.format) (s : State) :
    effect i s = putBlock i.format (effect i s) s := (row_local (SameBlock.refl hi s)).2

/-- A row leaves every other block's registers as they were. -/
theorem sameBlock_effect {f : Format} {i : Instr} (hf : IsBlock f) (hi : IsBlock i.format) (hne : f ≠ i.format)
    (s : State) : SameBlock f s (effect i s) := by
  rw [effect_eq_putBlock hi]
  exact sameBlock_putBlock hf hne _ s

theorem effect_comm {i j : Instr} (hi : IsBlock i.format) (hj : IsBlock j.format) (hne : i.format ≠ j.format)
    (s : State) : effect j (effect i s) = effect i (effect j s) := by
  calc effect j (effect i s)
      = putBlock j.format (effect j s) (effect i s) := (row_local (sameBlock_effect hj hi hne.symm s)).2
    _ = putBlock j.format (effect j s) (putBlock i.format (effect i s) s) := by rw [← effect_eq_putBlock hi]
    _ = putBlock i.format (effect i s) (putBlock j.format (effect j s) s) := putBlock_comm hne.symm _ _ _
    _ = putBlock i.format (effect i s) (effect j s) := by rw [← effect_eq_putBlock hj]
    _ = effect i (effect j s) := (row_local (sameBlock_effect hi hj hne s)).2.symm

/-- A row of one block stays selected after a row of another. -/
theorem selected_effect {i j : Instr} (hi : IsBlock i.format) (hj : IsBlock j.format) (hne : i.format ≠ j.format)
    (s : State) : selected i (effect j s) = selected i s := (row_local (sameBlock_effect hi hj hne s)).1

/-- Settles O41: each row reads and writes its own block's registers only. -/
theorem blocksDoNotInteract : Obligations.BlocksDoNotInteract := by
  intro i j s t u hi hj hne ht hu
  obtain ⟨hsi, rfl⟩ := exec_next_iff.mp ht
  obtain ⟨hsj, rfl⟩ := exec_next_iff.mp hu
  refine ⟨effect j (effect i s), exec_next_iff.mpr ⟨?_, rfl⟩, exec_next_iff.mpr ⟨?_, effect_comm hi hj hne s⟩⟩
  · rw [selected_effect hj hi hne.symm, hsj]
  · rw [selected_effect hi hj hne, hsi]

/-! ## What a step runs -/

/-- With no input left a step is an edge with nothing driven (log 1). -/
theorem step_no_input (s : State) :
    step { s with inputs := [] } =
      step { s with inputs := .edge .driven DecPins.quiet EncPins.quiet CkPins.quiet :: [] } := rfl

theorem step_quiet_edge (s : State) (rest : List Input) :
    step { s with inputs := .edge .driven DecPins.quiet EncPins.quiet CkPins.quiet :: rest } =
      .next { s with inputs := rest } := by
  obtain ⟨j, hj, hold⟩ := exec_quiet_encoder s (selCtx s)
  exact step_encLine s EncPins.quiet rest hj (hold _ rfl)

theorem step_present_busy {s : State} (p : List Byte) (rest : List Input) (h : encBusy s = true) :
    step { s with inputs := .present p :: rest } = .refused .payloadChanged := by
  have h' : encBusy { s with inputs := .present p :: rest } = true := h
  simp [step, cycle, fetch, h']

/-- Settles O37: the three rows of a driven edge, the quiet edge, and a payload presented. -/
theorem stepRunsOneOperationPerBlock : Obligations.StepRunsOneOperationPerBlock := by
  refine ⟨fun s d e k rest i j l hi hj hl => ?_, fun s => ?_, fun s p rest => ⟨?_, ?_⟩⟩
  · exact step_edge s .driven d e k rest (edgeOps_eq_ok.mpr ⟨i, j, l, hi, hj, hl, rfl⟩)
  · rw [step_no_input, step_quiet_edge]
  · intro h
    exact Safety.step_present s p rest (by simpa [encBusy, outValid] using h)
  · exact step_present_busy p rest

end Sys2Proof.Machine
end

section
/-! What the operations of each format leave unchanged (10_state.md R22 to R26, R34, R36; 20_memory.md R52, R56), and that the
contexts of a system share nothing (R39). -/

namespace Sys2Proof.Machine

/-! ## The decoder's registers and cells -/

theorem declaredLength_effect {i : Instr} {s : State} (hf : i.format = .d) :
    (effect i s).dec.declaredLength = s.dec.declaredLength ∨ (∃ v c b, i = .reset v c b) ∨ i = .feedLenZero ∨
      ∃ b, i = .feedLenNonzero b := by
  cases i <;> cases hf
  case reset | feedLenZero | feedLenNonzero => simp
  all_goals exact .inl rfl

theorem writeCursor_effect {i : Instr} {s : State} (hf : i.format = .d) :
    (effect i s).dec.writeCursor = s.dec.writeCursor ∨ (∃ v c b, i = .reset v c b) ∨ (∃ b, i = .feedPayloadMore b) ∨
      ∃ b, i = .feedPayloadLast b := by
  cases i <;> cases hf
  case reset | feedPayloadMore | feedPayloadLast => simp
  all_goals exact .inl rfl

theorem checksumAcc_effect {i : Instr} {s : State} (hf : i.format = .d) :
    (effect i s).dec.checksumAcc = s.dec.checksumAcc ∨ (∃ v c b, i = .reset v c b) ∨ (∃ b, i = .feedPayloadMore b) ∨
      ∃ b, i = .feedPayloadLast b := by
  cases i <;> cases hf
  case reset | feedPayloadMore | feedPayloadLast => simp
  all_goals exact .inl rfl

theorem failCause_effect {i : Instr} {s : State} (hf : i.format = .d) :
    (effect i s).dec.failCause = s.dec.failCause ∨ (∃ v c b, i = .reset v c b) ∨ (∃ b, i = .feedStartBad b) ∨
      (∃ b, i = .feedCksumBad b) ∨ ∃ b, i = .feedEndBad b := by
  cases i <;> cases hf
  case reset | feedStartBad | feedCksumBad | feedEndBad => simp
  all_goals exact .inl rfl

/-- FEED.PAYLOAD_MORE writes the state it is selected in. -/
theorem state_effect {i : Instr} {s : State} (hf : i.format = .d) (hsel : selected i s = true) :
    (effect i s).dec.state = s.dec.state ∨ ((∀ c b, i ≠ .idle c b) ∧ (∀ b, i ≠ .feedPayloadMore b) ∧
      (∀ b, i ≠ .feedDone b) ∧ ∀ b, i ≠ .feedFailed b) := by
  cases i <;> cases hf
  case idle | feedDone | feedFailed => exact .inl rfl
  case feedPayloadMore b =>
    obtain ⟨hs, -⟩ : s.dec.state = .awaitingPayload ∧ s.dec.writeCursor.toNat + 1 < s.dec.declaredLength.toNat := by
      simpa [selected] using hsel
    exact .inl hs.symm
  all_goals simp

theorem bufRead_appended (b : Byte) (n : DecState) (s : State) (a : Nat) :
    bufRead (appended b n s).dec a = if a = s.dec.writeCursor.toNat then b else bufRead s.dec a := bufRead_after_write

/-- Only the two payload rows write the buffer (R52). -/
theorem buffer_effect {i : Instr} (s : State) (hmore : ∀ b, i ≠ .feedPayloadMore b) (hlast : ∀ b, i ≠ .feedPayloadLast b) :
    (effect i s).dec.buffer = s.dec.buffer := by
  cases i
  case feedPayloadMore b => exact absurd rfl (hmore b)
  case feedPayloadLast b => exact absurd rfl (hlast b)
  all_goals rfl

theorem bufRead_congr {d d' : Decoder} (h : d'.buffer = d.buffer) (a : Nat) : bufRead d' a = bufRead d a := by
  rw [bufRead, h, bufRead]

/-- No row changes what a cell reads as, but for the cell at `write_cursor`. -/
theorem bufRead_effect (i : Instr) (s : State) {a : Nat} (ha : a ≠ s.dec.writeCursor.toNat) :
    bufRead (effect i s).dec a = bufRead s.dec a := by
  cases i
  case feedPayloadMore b => exact (bufRead_appended b _ s a).trans (if_neg ha)
  case feedPayloadLast b => exact (bufRead_appended b _ s a).trans (if_neg ha)
  all_goals exact bufRead_congr rfl a

/-- Settles O43: outside its own block a decoder row changes nothing; inside, one lemma per register. -/
theorem decoderOperationsFrame : Obligations.DecoderOperationsFrame := by
  intro i s t hf h
  obtain ⟨hsel, rfl⟩ := exec_next_iff.mp h
  have hown : effect i s = s.setDec (effect i s).dec := (decoder_row_local hf rfl).2
  refine ⟨?_, ?_, ?_, ?_, ?_, ?_, ?_, declaredLength_effect hf, writeCursor_effect hf, checksumAcc_effect hf,
    failCause_effect hf, state_effect hf hsel, fun a => bufRead_effect i s,
    fun hmore hlast => bufRead_congr (buffer_effect s hmore hlast)⟩
  all_goals rw [hown]; rfl

/-! ## The encoder's registers -/

theorem lenR_effect {i : Instr} {s : State} (hf : i.format = .e) :
    (effect i s).enc.lenR = s.enc.lenR ∨ (∃ st tl y c, i = .encReset st tl y c) ∨ ∃ y n, i = .encStartOk y n := by
  cases i <;> cases hf
  case encReset | encStartOk => simp
  all_goals exact .inl rfl

theorem cursor_effect {i : Instr} {s : State} (hf : i.format = .e) :
    (effect i s).enc.cursor = s.enc.cursor ∨ (∃ st tl y c, i = .encReset st tl y c) ∨ (∃ y n, i = .encStartOk y n) ∨
      (∃ st tl, i = .encEmitPayloadMore st tl) ∨ ∃ st tl, i = .encEmitPayloadLast st tl := by
  cases i <;> cases hf
  case encReset | encStartOk | encEmitPayloadMore | encEmitPayloadLast => simp
  all_goals exact .inl rfl

theorem acc_effect {i : Instr} {s : State} (hf : i.format = .e) :
    (effect i s).enc.acc = s.enc.acc ∨ (∃ st tl y c, i = .encReset st tl y c) ∨ (∃ y n, i = .encStartOk y n) ∨
      (∃ st tl, i = .encEmitPayloadMore st tl) ∨ ∃ st tl, i = .encEmitPayloadLast st tl := by
  cases i <;> cases hf
  case encReset | encStartOk | encEmitPayloadMore | encEmitPayloadLast => simp
  all_goals exact .inl rfl

theorem err_effect {i : Instr} {s : State} (hf : i.format = .e) :
    (effect i s).enc.err = s.enc.err ∨ (∃ st tl y c, i = .encReset st tl y c) ∨ (∃ y n, i = .encStartOk y n) ∨
      ∃ y n, i = .encStartTooLarge y n := by
  cases i <;> cases hf
  case encReset | encStartOk | encStartTooLarge => simp
  all_goals exact .inl rfl

/-- ENC.EMIT_PAYLOAD_MORE writes the phase it is selected in. -/
theorem phase_effect {i : Instr} {s : State} (hf : i.format = .e) (hsel : selected i s = true) :
    (effect i s).enc.phase = s.enc.phase ∨ ((∀ tl y, i ≠ .encIdle tl y) ∧ (∀ y n, i ≠ .encStartTooLarge y n) ∧
      (∀ st tl p, i ≠ .encStall st tl p) ∧ ∀ st tl, i ≠ .encEmitPayloadMore st tl) := by
  cases i <;> cases hf
  case encIdle | encStartTooLarge | encStall => exact .inl rfl
  case encEmitPayloadMore st tl =>
    obtain ⟨hp, -⟩ : s.enc.phase = .encPayload ∧ s.enc.cursor.toNat + 1 < s.enc.lenR.toNat := by
      simpa [selected] using hsel
    exact .inl hp.symm
  all_goals simp

/-- A row transfers one byte or none. -/
theorem wire_effect (i : Instr) (s : State) : (effect i s).wire = s.wire ∨ ∃ x, (effect i s).wire = s.wire ++ [x] := by
  cases i
  case encEmitStart | encEmitLengthNz | encEmitLengthZ | encEmitPayloadMore | encEmitPayloadLast | encEmitChecksum |
      encEmitEnd => exact .inr ⟨_, rfl⟩
  all_goals exact .inl rfl

/-- Settles O44: outside its own block an encoder row changes nothing; inside, one lemma per register. -/
theorem encoderOperationsFrame : Obligations.EncoderOperationsFrame := by
  intro i s t hf h
  obtain ⟨hsel, rfl⟩ := exec_next_iff.mp h
  have hown : effect i s = (s.setEnc (effect i s).enc).setWire (effect i s).wire :=
    (encoder_row_local hf rfl rfl rfl).2
  refine ⟨?_, ?_, ?_, ?_, ?_, ?_, fun a => ?_, fun a => ?_, lenR_effect hf, cursor_effect hf, acc_effect hf,
    err_effect hf, phase_effect hf hsel, wire_effect i s⟩
  all_goals rw [hown]; rfl

/-! ## The stand-alone CK8, the reads and the functions -/

/-- A read or a function writes the caller's record and its counter only, and adds one answer (R116, R117, R131). -/
theorem reading_row_effect {i : Instr} (hf : i.format = .r ∨ i.format = .function) (s : State) :
    effect i s = { s with reads := (effect i s).reads, draws := (effect i s).draws } ∧
      ∃ x, (effect i s).reads = s.reads ++ [x] := by
  cases i
  case result | rdPayload | encode | cksum8 => exact ⟨rfl, _, rfl⟩
  all_goals simp [Instr.format] at hf

/-- Settles O45. -/
theorem otherOperationsFrame : Obligations.OtherOperationsFrame := by
  intro i s t h
  obtain ⟨-, rfl⟩ := exec_next_iff.mp h
  have hck (hf : i.format = .k) : effect i s = s.setCk (effect i s).ck := (ck_row_local hf rfl).2
  refine ⟨hck, fun hf => ?_, fun hf a => by rw [hck hf]; rfl⟩
  obtain ⟨hrec, hans⟩ := reading_row_effect hf s
  exact ⟨hrec, fun a => by rw [hrec], hans⟩

/-! ## The contexts of a system -/

theorem stepContext_zero_eq_next {s : State} {sys sys' : List State} (h : stepContext 0 (s :: sys) = .next sys') :
    ∃ t, step s = .next t ∧ sys' = t :: sys := by
  simp only [stepContext] at h
  split at h
  · next t ht => cases h; exact ⟨t, ht, rfl⟩
  all_goals cases h

theorem stepContext_succ_eq_next {n : Nat} {s : State} {sys sys' : List State}
    (h : stepContext (n + 1) (s :: sys) = .next sys') : ∃ ts, stepContext n sys = .next ts ∧ sys' = s :: ts := by
  simp only [stepContext] at h
  split at h
  · next ts hts => cases h; exact ⟨ts, hts, rfl⟩
  all_goals cases h

/-- Settles O60, by induction on the system, as `stepContext` recurs. -/
theorem contextsShareNothing : Obligations.ContextsShareNothing := by
  intro n m sys
  induction sys generalizing n m with
  | nil => intro sys' h; cases n <;> cases h <;> simp
  | cons s sys ih =>
    intro sys' h
    cases n with
    | zero =>
      obtain ⟨t, ht, rfl⟩ := stepContext_zero_eq_next h
      refine ⟨rfl, fun hm => ?_, fun r hr => ⟨t, ?_, rfl⟩⟩
      · obtain ⟨k, rfl⟩ := Nat.exists_eq_succ_of_ne_zero hm
        rfl
      · cases hr; exact ht
    | succ n =>
      obtain ⟨ts, hts, rfl⟩ := stepContext_succ_eq_next h
      obtain ⟨hlen, -, hself⟩ := ih n m ts hts
      refine ⟨congrArg (· + 1) hlen, fun hm => ?_, hself⟩
      cases m with
      | zero => rfl
      | succ m => exact (ih n m ts hts).2.1 fun h => hm (congrArg (· + 1) h)

end Sys2Proof.Machine
end

section
/-! The outputs by state (10_state.md R31, R53), the values at reset (R42), and the codes that name nothing (R21, R34). -/

namespace Sys2Proof.Machine

theorem verdict_eq_pending {d : Decoder} (hdone : d.state ≠ .done) (hfailed : d.state ≠ .failed) :
    verdict d = .pending := by
  cases hs : d.state <;> simp [verdict, hs] at hdone hfailed ⊢

theorem verdict_of_done {d : Decoder} (h : d.state = .done) : verdict d = .complete := by simp [verdict, h]

theorem verdict_of_failed {d : Decoder} (h : d.state = .failed) :
    verdict d = if d.failCause then .checksumMismatch else .malformed := by simp [verdict, h]

theorem rdData_eq_none {d : Decoder} (h : d.state ≠ .done) (a : Byte) : rdData d a = none := by
  simp [rdData, rdInWindow, h]

theorem logicalContents_of_cursor_zero {d : Decoder} (h : d.writeCursor = 0x00#8) : logicalContents d = [] := by
  simp [logicalContents, h]

/-- Settles O16. -/
theorem verdictFollowsStateAndCause : Obligations.VerdictFollowsStateAndCause := by
  refine ⟨fun d => ⟨fun hdone hfailed => ?_, fun hs => ?_, fun hs hc => ?_, fun hs hc => ?_⟩, fun v code b s t h => ?_, rfl⟩
  · rw [verdict_eq_pending hdone hfailed]; exact ⟨rfl, rfl⟩
  · rw [verdict_of_done hs]; exact ⟨rfl, rfl⟩
  · rw [verdict_of_failed hs, hc]; exact ⟨rfl, rfl⟩
  · rw [verdict_of_failed hs, hc]; exact ⟨rfl, rfl⟩
  · rw [(exec_reset_eq_next v code b).mp h]; rfl

/-- The decoder's outputs after RESET (R42). -/
theorem reset_outputs {v : Bool} {code : BitVec 3} {b : Byte} {s t : State} (h : exec (.reset v code b) s = .next t) :
    t.dec = { State.reset.dec with buffer := s.dec.buffer } ∧ logicalContents t.dec = [] ∧
    (verdict t.dec).code = 0b00#2 ∧ payloadLen t.dec = 0x00#8 ∧ ∀ a, rdData t.dec a = none := by
  obtain rfl := (exec_reset_eq_next v code b).mp h
  exact ⟨rfl, logicalContents_of_cursor_zero rfl, rfl, rfl, rdData_eq_none (by simp)⟩

/-- The encoder's outputs after ENC.RESET (R42, R132). -/
theorem encReset_outputs {st tl y : Bool} {code : BitVec 3} {s t : State} (h : exec (.encReset st tl y code) s = .next t) :
    t.enc = State.reset.enc ∧ outValid t = false ∧ outLast t = false ∧ plAddr t = 0x00#8 ∧ outByte t = none := by
  obtain rfl := (exec_encReset_eq_next st tl y code).mp h
  exact ⟨rfl, rfl, rfl, rfl, rfl⟩

/-- Settles O50: the reset state is written out in the model; the three reset operations lead to its values. -/
theorem resetStateValues : Obligations.ResetStateValues := by
  refine ⟨rfl, rfl, rfl, logicalContents_of_cursor_zero rfl, rfl, rfl, rfl, rfl, rdData_eq_none (by decide), memRead_nil,
    rfl, rfl, rfl, rfl, rfl, rfl, rfl, rfl, rfl, rfl, rfl, fun _ _ _ _ _ => reset_outputs,
    fun _ _ _ _ _ _ => encReset_outputs, fun en b s t h => ?_⟩
  rw [(exec_ckClr_eq_next en b).mp h, State.setCk_ck]

theorem decode_illegalState (b : Byte) (c : SelCtx) : decode (.d (0b01111#5 ++ b)) c = .ok (.feedIllstate b) := by
  simp [decode, decodeD, DecState.ofCode]

theorem decode_illegalPhase (st t y l : Bool) (c : SelCtx) :
    decode (.e (0b0#1 ++ bit st ++ bit t ++ bit y ++ 0b11#2 ++ bit l) (canonicalEncLen t)) c =
      .ok (.encIllphase st t y l) := by
  cases st <;> cases t <;> cases y <;> cases l <;> rfl

/-- Settles O15. -/
theorem illegalCodesAreRefused : Obligations.IllegalCodesAreRefused := by
  refine ⟨fun st => ?_, fun ph => ?_, fun b c s => ⟨decode_illegalState b c, exec_feedIllstate b s⟩,
    fun st t y l c s => ⟨decode_illegalPhase st t y l c, exec_encIllphase st t y l s⟩⟩
  · cases st <;> decide
  · cases ph <;> decide

end Sys2Proof.Machine
end

section
/-! The invariant of 10_state.md R30 and of the serializer is kept by every step: every row keeps each block's half of it, and
what a step does before its rows run (take an input, present a payload) keeps it too. -/

namespace Sys2Proof.Safety

open Sys2Proof.Machine

theorem toNat_pos_of_ne_zero {b : Byte} (h : b ≠ 0x00#8) : 0 < b.toNat :=
  Nat.pos_of_ne_zero fun h0 => h (BitVec.eq_of_toNat_eq h0)

/-! ## What the decoder's rows keep -/

theorem logicalContents_appended {b : Byte} {n : DecState} {s : State} (h : s.dec.writeCursor.toNat < 255) :
    logicalContents (appended b n s).dec = logicalContents s.dec ++ [b] := by
  have hcursor : (appended b n s).dec.writeCursor.toNat = s.dec.writeCursor.toNat + 1 := succ_toNat_of_lt h
  have hbelow : (List.range s.dec.writeCursor.toNat).map (bufRead (appended b n s).dec) = logicalContents s.dec := by
    refine List.map_congr_left fun j hj => ?_
    rw [bufRead_appended, if_neg (List.mem_range.mp hj).ne]
  rw [logicalContents, hcursor, List.range_succ, List.map_append, hbelow, List.map_singleton, bufRead_appended,
    if_pos rfl]

theorem DecoderInv.failCause_eq_false {d : Decoder} (h : DecoderInv d) (hs : d.state ≠ .failed) : d.failCause = false :=
  Bool.eq_false_iff.mpr fun hc => hs (h.inv5 hc)

theorem DecoderInv.reset {s : State} (h : DecoderInv s.dec) : DecoderInv (resetDecoder s).dec where
  inv1 := rfl
  inv2 := fun _ => ⟨rfl, rfl, rfl⟩
  inv3 := by simp [Inv3]
  inv4 := fun _ => rfl
  inv5 := by simp [Inv5]
  inv6 := ⟨Nat.zero_le _, h.inv6.2⟩

/-- A change of `state` and `declared_length` alone touches no cell and no sum, so the relations of the new state are all there
is to show. -/
theorem DecoderInv.moveTo {d : Decoder} (h : DecoderInv d) (hs : d.state ≠ .failed) (n : Byte) (v : DecState)
    (h2 : Inv2 ((d.setDeclaredLength n).setState v)) (h3 : Inv3 ((d.setDeclaredLength n).setState v))
    (h4 : Inv4 ((d.setDeclaredLength n).setState v)) : DecoderInv ((d.setDeclaredLength n).setState v) where
  inv1 := h.inv1
  inv2 := h2
  inv3 := h3
  inv4 := h4
  inv5 := by simp [Inv5, h.failCause_eq_false hs]
  inv6 := h.inv6

/-- Error entry (R160), from a state whose cursor is the length. -/
theorem DecoderInv.raise {d : Decoder} (h : DecoderInv d) (hc : d.writeCursor = d.declaredLength) (cause : Bool) :
    DecoderInv ((d.setState .failed).setFailCause cause) where
  inv1 := h.inv1
  inv2 := by simp [Inv2]
  inv3 := by simp [Inv3]
  inv4 := fun _ => hc
  inv5 := fun _ => rfl
  inv6 := h.inv6

/-- After the payload, FEED.CKSUM_OK and FEED.END_OK move `state` alone. -/
theorem DecoderInv.moveAfterPayload {d : Decoder} (h : DecoderInv d) (hs : d.state = .awaitingChecksum ∨ d.state = .awaitingEnd)
    {v : DecState} (hv : v = .awaitingEnd ∨ v = .done) : DecoderInv (d.setState v) := by
  have hc : d.writeCursor = d.declaredLength := h.inv4 (by tauto)
  refine h.moveTo (n := d.declaredLength) (v := v) ?_ ?_ ?_ fun _ => hc
  · rcases hs with hs | hs <;> simp [hs]
  · rcases hv with rfl | rfl <;> simp [Inv2]
  · rcases hv with rfl | rfl <;> simp [Inv3]

/-- The append (R106, R107): the sum takes the byte the contents take; the new state's relation is left to show. -/
theorem DecoderInv.append {s : State} (h : DecoderInv s.dec) (hs : s.dec.state = .awaitingPayload) (b : Byte)
    {n : DecState} (h2 : Inv2 (appended b n s).dec) (h3 : Inv3 (appended b n s).dec) (h4 : Inv4 (appended b n s).dec) :
    DecoderInv (appended b n s).dec := by
  have hlt : s.dec.writeCursor.toNat < 255 := by
    have := (h.inv3 hs).2
    have := s.dec.declaredLength.isLt
    omega
  exact {
    inv1 := calc
      s.dec.checksumAcc + b = sum8 (logicalContents s.dec) + sum8 [b] := by rw [← h.inv1]; simp
      _ = sum8 (logicalContents (appended b n s).dec) := by rw [logicalContents_appended hlt, sum8_append]
    inv2 := h2
    inv3 := h3
    inv4 := h4
    inv5 := by simp [Inv5, appended, h.failCause_eq_false, hs]
    inv6 := ⟨Nat.le_of_lt_succ (BitVec.isLt _), memWrite_wf b hlt h.inv6.2⟩ }

theorem decoderInv_effect {i : Instr} {s : State} (h : DecoderInv s.dec) (hsel : selected i s = true) :
    DecoderInv (effect i s).dec := by
  cases i
  case reset => exact h.reset
  case feedStartOk =>
    have hs : s.dec.state = .awaitingStart := by simpa [selected] using hsel
    exact h.moveTo (by simp [hs]) s.dec.declaredLength .awaitingLength (fun _ => h.inv2 (.inl hs)) (by simp [Inv3])
      (by simp [Inv4])
  case feedStartBad b =>
    obtain ⟨hs, -⟩ : s.dec.state = .awaitingStart ∧ b ≠ Config.START := by simpa [selected] using hsel
    obtain ⟨hcursor, -, hlen⟩ := h.inv2 (.inl hs)
    exact h.raise (hcursor.trans hlen.symm) false
  case feedLenZero =>
    have hs : s.dec.state = .awaitingLength := by simpa [selected] using hsel
    obtain ⟨hcursor, -, -⟩ := h.inv2 (.inr hs)
    exact h.moveTo (by simp [hs]) 0x00#8 .awaitingChecksum (by simp [Inv2]) (by simp [Inv3]) fun _ => hcursor
  case feedLenNonzero b =>
    obtain ⟨hs, hb⟩ : s.dec.state = .awaitingLength ∧ b ≠ 0x00#8 := by simpa [selected] using hsel
    obtain ⟨hcursor, -, -⟩ := h.inv2 (.inr hs)
    have hpos : 0 < b.toNat := toNat_pos_of_ne_zero hb
    exact h.moveTo (by simp [hs]) b .awaitingPayload (by simp [Inv2]) (fun _ => ⟨hpos, by simpa [hcursor] using hpos⟩)
      (by simp [Inv4])
  case feedPayloadMore b =>
    obtain ⟨hs, hmore⟩ : s.dec.state = .awaitingPayload ∧ s.dec.writeCursor.toNat + 1 < s.dec.declaredLength.toNat := by
      simpa [selected] using hsel
    have hcursor : (s.dec.writeCursor + 1).toNat = s.dec.writeCursor.toNat + 1 := succ_toNat_of_lt (by omega)
    exact h.append hs b (by simp [Inv2, appended]) (fun _ => ⟨by simp [appended]; omega, by simp [appended]; omega⟩)
      (by simp [Inv4, appended])
  case feedPayloadLast b =>
    obtain ⟨hs, hlast⟩ : s.dec.state = .awaitingPayload ∧ s.dec.writeCursor.toNat + 1 = s.dec.declaredLength.toNat := by
      simpa [selected] using hsel
    have hcursor : s.dec.writeCursor + 1 = s.dec.declaredLength :=
      BitVec.eq_of_toNat_eq ((succ_toNat_of_lt (by omega)).trans hlast)
    exact h.append hs b (by simp [Inv2, appended]) (by simp [Inv3, appended]) fun _ => hcursor
  case feedCksumOk b =>
    obtain ⟨hs, -⟩ : s.dec.state = .awaitingChecksum ∧ b = s.dec.checksumAcc := by simpa [selected] using hsel
    exact h.moveAfterPayload (.inl hs) (.inl rfl)
  case feedCksumBad b =>
    obtain ⟨hs, -⟩ : s.dec.state = .awaitingChecksum ∧ b ≠ s.dec.checksumAcc := by simpa [selected] using hsel
    exact h.raise (h.inv4 (.inl hs)) true
  case feedEndOk =>
    have hs : s.dec.state = .awaitingEnd := by simpa [selected] using hsel
    exact h.moveAfterPayload (.inr hs) (.inr rfl)
  case feedEndBad b =>
    obtain ⟨hs, -⟩ : s.dec.state = .awaitingEnd ∧ b ≠ Config.END := by simpa [selected] using hsel
    exact h.raise (h.inv4 (.inr (.inl hs))) false
  all_goals exact h

/-! ## What the encoder's rows keep -/

theorem takenBytes_emitPayload {n : EncPhase} {s : State} (h : s.enc.cursor.toNat < 255) :
    takenBytes (emitPayload n s) = takenBytes s ++ [plData s] := by
  have hcursor : (emitPayload n s).enc.cursor.toNat = s.enc.cursor.toNat + 1 := succ_toNat_of_lt h
  rw [takenBytes, hcursor, List.range_succ, List.map_append]
  rfl

/-- The serializer's invariant reads the encoder and the payload source only. -/
theorem EncoderInv.congr {s t : State} (h : EncoderInv s) (henc : t.enc = s.enc) (hsrc : t.payloadSrc = s.payloadSrc) :
    EncoderInv t := by
  cases s; cases t; cases henc; cases hsrc
  exact ⟨h.before, h.inside, h.after, h.errIdle, h.accSum, h.source⟩

/-- While an ENCODE is in progress there is no error flag. -/
theorem EncoderInv.err_eq_false {s : State} (h : EncoderInv s) (hp : s.enc.phase ≠ .encIdle) : s.enc.err = false :=
  Bool.eq_false_iff.mpr fun he => hp (h.errIdle he)

theorem EncoderInv.reset {s : State} (h : EncoderInv s) : EncoderInv (resetEncoder s) where
  before := fun _ => rfl
  inside := by simp
  after := fun _ => rfl
  errIdle := by simp
  accSum := by simp
  source := h.source

theorem EncoderInv.start {s : State} (h : EncoderInv s) (n : Byte) : EncoderInv
    (s.setEnc (((((s.enc.setLenR n).setCursor 0x00#8).setAcc 0x00#8).setErr false).setPhase .encStart)) where
  before := fun _ => rfl
  inside := by simp
  after := by simp
  errIdle := by simp
  accSum := fun _ => rfl
  source := h.source

/-- The refusal of a start (R135) raises the flag while idle. -/
theorem EncoderInv.raise {s : State} (h : EncoderInv s) (hp : s.enc.phase = .encIdle) :
    EncoderInv (s.setEnc (s.enc.setErr true)) where
  before := h.before
  inside := h.inside
  after := h.after
  errIdle := fun _ => hp
  accSum := h.accSum
  source := h.source

/-- A transfer that takes no payload byte moves the phase alone, so the new phase's cursor relation is all there is to show. -/
theorem EncoderInv.transfer {s : State} (h : EncoderInv s) (hp : s.enc.phase ≠ .encIdle) (b : Byte) {p : EncPhase}
    (hbefore : p = .encStart ∨ p = .encLength → s.enc.cursor = 0x00#8)
    (hinside : p = .encPayload → s.enc.cursor.toNat < s.enc.lenR.toNat)
    (hafter : p = .encChecksum ∨ p = .encEnd → s.enc.cursor = s.enc.lenR) :
    EncoderInv ((emit b s).setEnc (s.enc.setPhase p)) where
  before := hbefore
  inside := hinside
  after := hafter
  errIdle := by simp [h.err_eq_false hp]
  accSum := fun _ => h.accSum hp
  source := h.source

/-- A payload transfer (R141, R142): the sum takes the byte the cursor passes; the new phase's relation is left to show. -/
theorem EncoderInv.transferPayload {s : State} (h : EncoderInv s) (hp : s.enc.phase = .encPayload) {p : EncPhase}
    (hbefore : p ≠ .encStart ∧ p ≠ .encLength)
    (hinside : p = .encPayload → (s.enc.cursor + 1).toNat < s.enc.lenR.toNat)
    (hafter : p = .encChecksum ∨ p = .encEnd → s.enc.cursor + 1 = s.enc.lenR) : EncoderInv (emitPayload p s) := by
  have hne : s.enc.phase ≠ .encIdle := by simp [hp]
  have hlt : s.enc.cursor.toNat < 255 := by
    have := h.inside hp
    have := s.enc.lenR.isLt
    omega
  exact {
    before := by simp [hbefore]
    inside := hinside
    after := hafter
    errIdle := by simp [h.err_eq_false hne]
    accSum := fun _ => calc
      (emitPayload p s).enc.acc = sum8 (takenBytes s) + sum8 [plData s] := by simp [← h.accSum hne]
      _ = sum8 (takenBytes (emitPayload p s)) := by rw [takenBytes_emitPayload hlt, sum8_append]
    source := h.source }

theorem encoderInv_effect {i : Instr} {s : State} (h : EncoderInv s) (hsel : selected i s = true) :
    EncoderInv (effect i s) := by
  cases i
  case encReset => exact h.reset
  case encStartOk y n => exact h.start n
  case encStartTooLarge y n =>
    obtain ⟨hp, -⟩ : s.enc.phase = .encIdle ∧ tooLargeBit n = true := by simpa [selected] using hsel
    exact h.raise hp
  case encEmitStart st tl =>
    have hp : s.enc.phase = .encStart := by simpa [selected] using hsel
    exact h.transfer (by simp [hp]) _ (fun _ => h.before (.inl hp)) (by simp) (by simp)
  case encEmitLengthNz st tl =>
    obtain ⟨hp, hlen⟩ : s.enc.phase = .encLength ∧ s.enc.lenR ≠ 0x00#8 := by simpa [selected] using hsel
    have hpos : 0 < s.enc.lenR.toNat := toNat_pos_of_ne_zero hlen
    exact h.transfer (by simp [hp]) _ (by simp) (fun _ => by simpa [h.before (.inr hp)] using hpos) (by simp)
  case encEmitLengthZ st tl =>
    obtain ⟨hp, hlen⟩ : s.enc.phase = .encLength ∧ s.enc.lenR = 0x00#8 := by simpa [selected] using hsel
    exact h.transfer (by simp [hp]) _ (by simp) (by simp) fun _ => (h.before (.inr hp)).trans hlen.symm
  case encEmitPayloadMore st tl =>
    obtain ⟨hp, hmore⟩ : s.enc.phase = .encPayload ∧ s.enc.cursor.toNat + 1 < s.enc.lenR.toNat := by
      simpa [selected] using hsel
    have hcursor : (s.enc.cursor + 1).toNat = s.enc.cursor.toNat + 1 := succ_toNat_of_lt (by omega)
    exact h.transferPayload hp (by simp) (fun _ => hcursor ▸ hmore) (by simp)
  case encEmitPayloadLast st tl =>
    obtain ⟨hp, hlast⟩ : s.enc.phase = .encPayload ∧ s.enc.cursor.toNat + 1 = s.enc.lenR.toNat := by
      simpa [selected] using hsel
    exact h.transferPayload hp (by simp) (by simp)
      fun _ => BitVec.eq_of_toNat_eq ((succ_toNat_of_lt (by omega)).trans hlast)
  case encEmitChecksum st tl =>
    have hp : s.enc.phase = .encChecksum := by simpa [selected] using hsel
    exact h.transfer (by simp [hp]) _ (by simp) (by simp) fun _ => h.after (.inl hp)
  case encEmitEnd st tl =>
    have hp : s.enc.phase = .encEnd := by simpa [selected] using hsel
    exact h.transfer (by simp [hp]) _ (by simp) (by simp) (by simp)
  all_goals exact h.congr rfl rfl

/-! ## What a step keeps -/

theorem Inv.of_exec {i : Instr} {s t : State} (h : Inv s) (ht : exec i s = .next t) : Inv t := by
  obtain ⟨hsel, rfl⟩ := exec_next_iff.mp ht
  exact ⟨decoderInv_effect h.decoder hsel, encoderInv_effect h.encoder hsel⟩

theorem Inv.of_runOps {is : List Instr} {s t : State} (h : Inv s) (ht : runOps is s = .next t) : Inv t := by
  induction is generalizing s with
  | nil => cases ht; exact h
  | cons i is ih =>
    obtain ⟨u, hu, ht⟩ := runOps_cons_eq_next ht
    exact ih (h.of_exec hu) ht

/-- Everything a fetch does to the state: it takes the input, and puts a presented payload into an idle encoder's source. -/
theorem fetch_state {s u : State} {is : List Instr} (h : fetch s = .ok (is, u)) :
    (∃ l, u = s.setInputs l) ∨ ∃ p l, s.enc.phase = .encIdle ∧ u = (s.setPayloadSrc (sourceOf p)).setInputs l := by
  unfold fetch at h
  split at h
  case h_1 | h_2 | h_3 =>
    split at h
    · cases h; exact .inl ⟨_, rfl⟩
    · cases h
  case h_4 p rest _ =>
    split at h
    · cases h
    · next hb => cases h; exact .inr ⟨p, rest, by simpa [encBusy, outValid] using hb, rfl⟩

theorem Inv.of_fetch {s u : State} {is : List Instr} (h : Inv s) (hf : fetch s = .ok (is, u)) : Inv u := by
  obtain ⟨l, rfl⟩ | ⟨p, l, hp, rfl⟩ := fetch_state hf
  · exact ⟨h.decoder, h.encoder.congr rfl rfl⟩
  · exact ⟨h.decoder, {
      before := h.encoder.before
      inside := h.encoder.inside
      after := h.encoder.after
      errIdle := h.encoder.errIdle
      accSum := fun hne => absurd hp hne
      source := sourceOf_wf p }⟩

/-- A step that completes is a fetch, then the fetched rows. -/
theorem step_eq_next {s t : State} (h : step s = .next t) :
    ∃ is u, fetch s = .ok (is, u) ∧ runOps is u = .next t := by
  unfold step cycle at h
  split at h
  · next is u hf => exact ⟨is, u, hf, h⟩
  · cases h

/-- Settles O52: the fetch keeps the invariant, and so does each row run after it. -/
theorem stepKeepsTheInvariant : Obligations.StepKeepsTheInvariant := by
  intro s t h ht
  obtain ⟨is, u, hf, hr⟩ := step_eq_next ht
  exact (h.of_fetch hf).of_runOps hr

theorem decoderInv_initial : DecoderInv Decoder.initial where
  inv1 := rfl
  inv2 := fun _ => ⟨rfl, rfl, rfl⟩
  inv3 := by simp [Inv3]
  inv4 := fun _ => rfl
  inv5 := by simp [Inv5]
  inv6 := ⟨Nat.zero_le _, by simp [Memory.wf]⟩

theorem encoderInv_reset : EncoderInv State.reset where
  before := fun _ => rfl
  inside := by simp [State.reset]
  after := fun _ => rfl
  errIdle := by simp [State.reset]
  accSum := by simp [State.reset]
  source := by simp [State.reset, Memory.wf]

/-- Settles O51. -/
theorem resetSatisfiesTheInvariant : Obligations.ResetSatisfiesTheInvariant := ⟨decoderInv_initial, encoderInv_reset⟩

end Sys2Proof.Safety
end

section
/-! The payload buffer (20_memory.md R52, R53): its one writer, and its read port, which nothing but RESET disturbs once a frame is
complete. -/

namespace Sys2Proof.Machine

/-! ## The write port -/

@[simp] theorem appended_buffer (b : Byte) (n : DecState) (s : State) :
    (appended b n s).dec.buffer = memWrite s.dec.buffer s.dec.writeCursor.toNat b := rfl

theorem state_of_selected_payload {i : Instr} {b : Byte} {s : State} (hi : i = .feedPayloadMore b ∨ i = .feedPayloadLast b)
    (hsel : selected i s = true) : s.dec.state = .awaitingPayload := by
  obtain rfl | rfl := hi <;> simp only [selected, Bool.and_eq_true, beq_iff_eq] at hsel <;> exact hsel.1

theorem buffer_effect_payload {i : Instr} {b : Byte} (s : State) (hi : i = .feedPayloadMore b ∨ i = .feedPayloadLast b) :
    (effect i s).dec.buffer = memWrite s.dec.buffer s.dec.writeCursor.toNat b := by
  obtain rfl | rfl := hi
  · exact appended_buffer b .awaitingPayload s
  · exact appended_buffer b .awaitingChecksum s

/-- Settles O46: the two payload rows append, and no other row touches the buffer. -/
theorem onlyPayloadFeedsWriteTheBuffer : Obligations.OnlyPayloadFeedsWriteTheBuffer := by
  intro i s t h
  obtain ⟨hsel, rfl⟩ := exec_next_iff.mp h
  refine ⟨fun b hi => ?_, buffer_effect s⟩
  have hbuf := buffer_effect_payload s hi
  refine ⟨state_of_selected_payload hi hsel, hbuf, ?_, fun a ha => ?_⟩
  · rw [hbuf, memRead_memWrite_same]
  · rw [hbuf, memRead_memWrite_other _ _ _ _ ha]

/-! ## The read port -/

theorem rdData_eq_ite (d : Decoder) (a : Byte) :
    rdData d a = if d.state = .done ∧ a.toNat < d.declaredLength.toNat then some (bufRead d a.toNat) else none := by
  simp [rdData, rdInWindow]

theorem deliveredPayload_of_done {d : Decoder} (h : d.state = .done) :
    deliveredPayload d = (List.range d.declaredLength.toNat).map (bufRead d) := by
  simp [deliveredPayload, verdict_of_done h, payloadLen]

/-- The rows that write the decoder each need a state before the verdict; in Done and Failed only RESET is left (R161). -/
theorem dec_effect_of_terminal {i : Instr} {s : State} (hs : s.dec.state = .done ∨ s.dec.state = .failed)
    (hreset : ∀ v c b, i ≠ .reset v c b) (hsel : selected i s = true) : (effect i s).dec = s.dec := by
  cases i
  case reset v c b => exact absurd rfl (hreset v c b)
  case feedStartOk | feedStartBad | feedLenZero | feedLenNonzero | feedPayloadMore | feedPayloadLast | feedCksumOk |
      feedCksumBad | feedEndOk | feedEndBad =>
    obtain hs | hs := hs <;> simp [selected, hs] at hsel
  all_goals rfl

/-- Settles O17: the window is the definition's, and in Done the port reads a decoder that only RESET changes. -/
theorem readPortInsideItsWindow : Obligations.ReadPortInsideItsWindow := by
  refine ⟨rdData_eq_ite, fun d => deliveredPayload_of_done, fun i s t a hs hreset h => ?_, fun a s t h => ?_⟩
  · obtain ⟨hsel, rfl⟩ := exec_next_iff.mp h
    rw [dec_effect_of_terminal (.inl hs) hreset hsel]
  · obtain ⟨-, rfl⟩ := exec_next_iff.mp h
    exact ⟨rfl, rfl, rfl, rfl, rfl, rfl⟩

end Sys2Proof.Machine
end

section
/-! Every word has one of its format's shapes (30_encoding.md R76 to R78), and what the decoder reads from each shape. -/

namespace Sys2Proof.Machine

/-! ## Format D -/

abbrev resetWord (v : Bool) (c : BitVec 3) (b : Byte) : BitVec 13 := 0b1#1 ++ bit v ++ c ++ b

abbrev idleWord (c : BitVec 3) (b : Byte) : BitVec 13 := 0b00#2 ++ c ++ b

abbrev feedWord (st : DecState) (b : Byte) : BitVec 13 := 0b01#2 ++ st.code ++ b

/-- The row of a byte fed in a state (R76): the fed byte and the registers decide. -/
def feedRow (st : DecState) (b : Byte) (c : SelCtx) : Except DecodeError Instr :=
  match st with
  | .awaitingStart => if b = Config.START then .ok .feedStartOk else .ok (.feedStartBad b)
  | .awaitingLength => if b = 0x00#8 then .ok .feedLenZero else .ok (.feedLenNonzero b)
  | .awaitingPayload =>
    if c.payloadMore then .ok (.feedPayloadMore b)
    else if c.payloadLast then .ok (.feedPayloadLast b)
    else .error .cursorPastLength
  | .awaitingChecksum => if b = c.checksumAcc then .ok (.feedCksumOk b) else .ok (.feedCksumBad b)
  | .awaitingEnd => if b = Config.END then .ok .feedEndOk else .ok (.feedEndBad b)
  | .done => .ok (.feedDone b)
  | .failed => .ok (.feedFailed b)

theorem decode_resetWord (v : Bool) (code : BitVec 3) (b : Byte) (c : SelCtx) :
    decode (.d (resetWord v code b)) c = .ok (.reset v code b) := by
  simp [decode, decodeD]

theorem decode_idleWord (code : BitVec 3) (b : Byte) (c : SelCtx) :
    decode (.d (idleWord code b)) c = .ok (.idle code b) := by
  simp [decode, decodeD]

theorem decode_feedWord (st : DecState) (b : Byte) (c : SelCtx) : decode (.d (feedWord st b)) c = feedRow st b c := by
  simp only [decode, decodeD, feedRow]
  cases st <;> simp

/-- The shapes of a word of format D; the last is a FEED under the code that is no state. -/
theorem wordD_shapes {P : BitVec 13 → Prop} (reset : ∀ v code b, P (resetWord v code b))
    (idle : ∀ code b, P (idleWord code b)) (feed : ∀ st b, P (feedWord st b))
    (illegal : ∀ b : Byte, P (0b01111#5 ++ b)) (w : BitVec 13) : P w := by
  rw [← wordD_split w]
  generalize w.getLsbD 12 = r, w.getLsbD 11 = v, w.extractLsb' 8 3 = code, w.extractLsb' 0 8 = b
  cases r
  case true => exact reset v code b
  case false =>
    cases v
    case false => exact idle code b
    case true =>
      cases hst : DecState.ofCode code with
      | some st => rw [← DecState.code_of_ofCode hst]; exact feed st b
      | none =>
        obtain rfl : code = 0b111#3 := by revert code; decide
        exact illegal b

/-! ## Format E -/

abbrev encResetWord (s t y : Bool) (c : BitVec 3) : BitVec 7 := bit true ++ bit s ++ bit t ++ bit y ++ c

abbrev phaseWord (s t y : Bool) (ph : EncPhase) : BitVec 7 := bit false ++ bit s ++ bit t ++ bit y ++ ph.code

abbrev illegalPhaseWord (s t y l : Bool) : BitVec 7 := bit false ++ bit s ++ bit t ++ bit y ++ (0b11#2 ++ bit l)

/-- The row of a phase (R77), by the pins and the registers. -/
def phaseRow (ph : EncPhase) (s t y : Bool) (n : EncLen) (c : SelCtx) : Except DecodeError Instr :=
  match ph with
  | .encIdle =>
    if !s then .ok (.encIdle t y)
    else if t then .ok (.encStartTooLarge y n)
    else .ok (.encStartOk y (n.extractLsb' 0 8))
  | .encStart => if y then .ok (.encEmitStart s t) else .ok (.encStall s t .encStart)
  | .encLength =>
    if !y then .ok (.encStall s t .encLength)
    else if c.encLenR = 0x00#8 then .ok (.encEmitLengthZ s t)
    else .ok (.encEmitLengthNz s t)
  | .encPayload =>
    if !y then .ok (.encStall s t .encPayload)
    else if c.encMore then .ok (.encEmitPayloadMore s t)
    else if c.encLast then .ok (.encEmitPayloadLast s t)
    else .error .encCursorPastLength
  | .encChecksum => if y then .ok (.encEmitChecksum s t) else .ok (.encStall s t .encChecksum)
  | .encEnd => if y then .ok (.encEmitEnd s t) else .ok (.encStall s t .encEnd)

theorem wordE_tooLarge (r s t y : Bool) (code : BitVec 3) :
    BitVec.getLsbD (w := 7) (bit r ++ bit s ++ bit t ++ bit y ++ code) 4 = t := by
  obtain ⟨-, -, h, -, -⟩ := wordE_fields r s t y code
  exact h

section
variable {t : Bool} {n : EncLen} (ht : tooLargeBit n = t)
include ht

theorem decode_encResetWord (s y : Bool) (code : BitVec 3) (c : SelCtx) :
    decode (.e (encResetWord s t y code) n) c = .ok (.encReset s t y code) := by
  obtain ⟨h0, h3, h4, h5, h6⟩ := wordE_fields true s t y code
  simp [decode, decodeE, h0, h3, h4, h5, h6, ht, -BitVec.getLsbD_eq_getElem]

theorem decode_phaseWord (s y : Bool) (ph : EncPhase) (c : SelCtx) :
    decode (.e (phaseWord s t y ph) n) c = phaseRow ph s t y n c := by
  subst ht
  exact (decode_dispatchWordE ⟨false, s, n, y⟩ ph c).trans (by cases ph <;> rfl)

theorem decode_illegalPhaseWord (s y l : Bool) (c : SelCtx) :
    decode (.e (illegalPhaseWord s t y l) n) c = .ok (.encIllphase s t y l) := by
  obtain ⟨h0, h3, h4, h5, h6⟩ := wordE_fields false s t y (0b11#2 ++ bit l)
  have hl : (illegalPhaseWord s t y l).getLsbD 0 = l := by cases s <;> cases t <;> cases y <;> cases l <;> rfl
  have hcode : EncPhase.ofCode (0b11#2 ++ bit l) = none := by cases l <;> rfl
  simp [decode, decodeE, h0, h3, h4, h5, h6, hl, hcode, ht, -BitVec.getLsbD_eq_getElem]

end

/-- A word whose bit 4 is not `enc_len > 255` is no word of a step (R77). -/
theorem tooLargeBit_of_decodeE {w : BitVec 7} {n : EncLen} {c : SelCtx} {i : Instr} (h : decode (.e w n) c = .ok i) :
    w.getLsbD 4 = tooLargeBit n := by
  by_contra hne
  simp [decode, decodeE, hne, -BitVec.getLsbD_eq_getElem] at h

/-- The shapes of a word of format E; the last is under a code that is no phase. -/
theorem wordE_shapes {P : BitVec 7 → Prop} (reset : ∀ s t y code, P (encResetWord s t y code))
    (phase : ∀ s t y ph, P (phaseWord s t y ph)) (illegal : ∀ s t y l, P (illegalPhaseWord s t y l))
    (w : BitVec 7) : P w := by
  rw [← wordE_split w]
  generalize w.getLsbD 6 = r, w.getLsbD 5 = s, w.getLsbD 4 = t, w.getLsbD 3 = y, w.extractLsb' 0 3 = code
  cases r
  case true => exact reset s t y code
  case false =>
    cases hph : EncPhase.ofCode code with
    | some ph => rw [← EncPhase.code_of_ofCode hph]; exact phase s t y ph
    | none =>
      obtain ⟨l, rfl⟩ : ∃ l, code = 0b11#2 ++ bit l := by revert code; decide
      exact illegal s t y l

/-! ## Format K -/

/-- The shapes of a word of format K (R78). -/
theorem wordK_shapes {P : BitVec 10 → Prop} (clr : ∀ (en : Bool) (b : Byte), P (0b1#1 ++ bit en ++ b))
    (add : ∀ b : Byte, P (0b01#2 ++ b)) (hold : ∀ b : Byte, P (0b00#2 ++ b)) (w : BitVec 10) : P w := by
  rw [← wordK_split w]
  generalize w.getLsbD 9 = r, w.getLsbD 8 = en, w.extractLsb' 0 8 = b
  cases r
  case true => exact clr en b
  case false =>
    cases en
    case true => exact add b
    case false => exact hold b

theorem decode_ckClrWord (en : Bool) (b : Byte) (c : SelCtx) :
    decode (.k (0b1#1 ++ bit en ++ b)) c = .ok (.ckClr en b) := by
  simp [decode, decodeK]

theorem decode_ckAddWord (b : Byte) (c : SelCtx) : decode (.k (0b01#2 ++ b)) c = .ok (.ckAdd b) := by
  simp [decode, decodeK]

theorem decode_ckHoldWord (b : Byte) (c : SelCtx) : decode (.k (0b00#2 ++ b)) c = .ok (.ckHold b) := by
  simp [decode, decodeK]

/-! ## The words of pins -/

theorem dispatchWordD_reset (v : Bool) (b : Byte) (st : DecState) :
    dispatchWordD ⟨true, v, b⟩ st = resetWord v st.code b := rfl

theorem dispatchWordD_idle (b : Byte) (st : DecState) : dispatchWordD ⟨false, false, b⟩ st = idleWord st.code b := by
  show bit false ++ bit false ++ st.code ++ b = _
  rfl

theorem dispatchWordD_feed (b : Byte) (st : DecState) : dispatchWordD ⟨false, true, b⟩ st = feedWord st b := by
  show bit false ++ bit true ++ st.code ++ b = _
  rfl

theorem dispatchWordE_reset (st y : Bool) (n : EncLen) (ph : EncPhase) :
    dispatchWordE ⟨true, st, n, y⟩ ph = encResetWord st (tooLargeBit n) y ph.code := rfl

theorem dispatchWordE_phase (st y : Bool) (n : EncLen) (ph : EncPhase) :
    dispatchWordE ⟨false, st, n, y⟩ ph = phaseWord st (tooLargeBit n) y ph := rfl

end Sys2Proof.Machine
end

section
/-! Decoding and encoding are inverse to each other: from a row to its word and back, and from a word to its row and
back. -/

namespace Sys2Proof.Machine

/-! ## The words of the encoder's rows -/

/-- The patterns of the emitting rows (R77) give `out_ready` and the phase together. -/
theorem emitPattern_eq (s t : Bool) (ph : EncPhase) :
    (0b0#1 ++ bit s ++ bit t ++ (0b1#1 ++ ph.code) : BitVec 7) = phaseWord s t true ph := by
  cases ph <;> cases s <;> cases t <;> rfl

theorem illphasePattern_eq (s t y l : Bool) :
    (0b0#1 ++ bit s ++ bit t ++ bit y ++ 0b11#2 ++ bit l : BitVec 7) = illegalPhaseWord s t y l := by
  cases s <;> cases t <;> cases y <;> cases l <;> rfl

theorem encode_encStartOk (y : Bool) (n : Byte) :
    encode (.encStartOk y n) = .e (phaseWord true false y .encIdle) (n.setWidth 16) := by
  cases y <;> rfl

theorem encode_encStartTooLarge (y : Bool) (n : EncLen) :
    encode (.encStartTooLarge y n) = .e (phaseWord true true y .encIdle) n := by
  cases y <;> rfl

theorem encode_encIdle (t y : Bool) : encode (.encIdle t y) = .e (phaseWord false t y .encIdle) (canonicalEncLen t) := by
  cases t <;> cases y <;> rfl

theorem tooLargeBit_setWidth (n : Byte) : tooLargeBit (n.setWidth 16) = false := by
  have := n.isLt
  simp only [tooLargeBit, Config.MAX_PAYLOAD, BitVec.toNat_setWidth, decide_eq_false_iff_not]
  omega

theorem extractLsb'_setWidth_byte (n : Byte) : (n.setWidth 16).extractLsb' 0 8 = n :=
  BitVec.eq_of_toNat_eq (by simpa using n.isLt)

theorem decode_emitPattern (s t : Bool) (ph : EncPhase) (c : SelCtx) :
    decode (.e (0b0#1 ++ bit s ++ bit t ++ (0b1#1 ++ ph.code)) (canonicalEncLen t)) c =
      phaseRow ph s t true (canonicalEncLen t) c := by
  rw [emitPattern_eq, decode_phaseWord (tooLargeBit_canonical t)]

/-! ## From a row to its word and back -/

theorem not_payloadMore_of_payloadLast {c : SelCtx} (h : c.payloadLast = true) : ¬ c.payloadMore = true := by
  simp only [SelCtx.payloadLast, SelCtx.payloadMore, decide_eq_true_eq] at h ⊢
  omega

theorem not_encMore_of_encLast {c : SelCtx} (h : c.encLast = true) : ¬ c.encMore = true := by
  simp only [SelCtx.encLast, SelCtx.encMore, decide_eq_true_eq] at h ⊢
  omega

/-- ENC.STALL's pattern leaves the phase open but for EncIdle, whose word is ENC.IDLE's by priority (R77). -/
theorem phaseRow_not_ready (s t : Bool) {ph : EncPhase} (h : ph ≠ .encIdle) (n : EncLen) (c : SelCtx) :
    phaseRow ph s t false n c = .ok (.encStall s t ph) := by
  cases ph
  case encIdle => exact absurd rfl h
  all_goals rfl

/-- Settles O32: the word of a row has the shape of its state or phase, and the row's own conditions make it the one read
there. -/
theorem decodeEncodeRoundTrip : Obligations.DecodeEncodeRoundTrip := by
  intro i c hwf hc
  cases i
  case reset v code b => exact decode_resetWord v code b c
  case idle code b => exact decode_idleWord code b c
  case feedStartOk => exact decode_feedWord .awaitingStart Config.START c
  case feedStartBad b => exact (decode_feedWord .awaitingStart b c).trans (if_neg (by simpa [Instr.wf] using hwf))
  case feedLenZero => exact decode_feedWord .awaitingLength 0x00#8 c
  case feedLenNonzero b => exact (decode_feedWord .awaitingLength b c).trans (if_neg (by simpa [Instr.wf] using hwf))
  case feedPayloadMore b => exact (decode_feedWord .awaitingPayload b c).trans (if_pos hc)
  case feedPayloadLast b =>
    exact (decode_feedWord .awaitingPayload b c).trans ((if_neg (not_payloadMore_of_payloadLast hc)).trans (if_pos hc))
  case feedCksumOk b =>
    exact (decode_feedWord .awaitingChecksum b c).trans (if_pos (by simpa [Instr.registersAllow] using hc))
  case feedCksumBad b =>
    exact (decode_feedWord .awaitingChecksum b c).trans (if_neg (by simpa [Instr.registersAllow] using hc))
  case feedEndOk => exact decode_feedWord .awaitingEnd Config.END c
  case feedEndBad b => exact (decode_feedWord .awaitingEnd b c).trans (if_neg (by simpa [Instr.wf] using hwf))
  case feedDone b => exact decode_feedWord .done b c
  case feedFailed b => exact decode_feedWord .failed b c
  case feedIllstate b => exact decode_illegalState b c
  case encReset s t y code => exact decode_encResetWord (tooLargeBit_canonical t) s y code c
  case encStartOk y n =>
    rw [encode_encStartOk, decode_phaseWord (tooLargeBit_setWidth n)]
    exact congrArg (fun m => Except.ok (Instr.encStartOk y m)) (extractLsb'_setWidth_byte n)
  case encStartTooLarge y n =>
    rw [encode_encStartTooLarge]
    exact decode_phaseWord hwf true y .encIdle c
  case encIdle t y =>
    rw [encode_encIdle]
    exact decode_phaseWord (tooLargeBit_canonical t) false y .encIdle c
  case encEmitStart s t => exact decode_emitPattern s t .encStart c
  case encEmitLengthNz s t =>
    exact (decode_emitPattern s t .encLength c).trans (if_neg (by simpa [Instr.registersAllow] using hc))
  case encEmitLengthZ s t =>
    exact (decode_emitPattern s t .encLength c).trans (if_pos (by simpa [Instr.registersAllow] using hc))
  case encEmitPayloadMore s t => exact (decode_emitPattern s t .encPayload c).trans (if_pos hc)
  case encEmitPayloadLast s t =>
    exact (decode_emitPattern s t .encPayload c).trans ((if_neg (not_encMore_of_encLast hc)).trans (if_pos hc))
  case encEmitChecksum s t => exact decode_emitPattern s t .encChecksum c
  case encEmitEnd s t => exact decode_emitPattern s t .encEnd c
  case encIllphase s t y l =>
    rw [encode, illphasePattern_eq]
    exact decode_illegalPhaseWord (tooLargeBit_canonical t) s y l c
  case encStall s t ph =>
    exact (decode_phaseWord (tooLargeBit_canonical t) s false ph c).trans
      (phaseRow_not_ready s t (by simpa [Instr.wf] using hwf) _ c)
  case ckClr en b => exact decode_ckClrWord en b c
  case ckAdd b => exact decode_ckAddWord b c
  case ckHold b => exact decode_ckHoldWord b c
  case result | rdPayload | encode | cksum8 => rfl

/-! ## From a word to its row and back -/

theorem encode_of_feedRow {st : DecState} {b : Byte} {c : SelCtx} {i : Instr} (h : feedRow st b c = .ok i) :
    encode i = .d (feedWord st b) ∧ i.wf = true ∧ i.registersAllow c = true := by
  cases st
  case awaitingStart | awaitingLength | awaitingEnd =>
    obtain ⟨rfl, ⟨⟩⟩ | ⟨hb, ⟨⟩⟩ := ite_eq_iff.mp h
    exacts [⟨rfl, rfl, rfl⟩, ⟨rfl, bne_iff_ne.mpr hb, rfl⟩]
  case awaitingPayload =>
    obtain ⟨hmore, ⟨⟩⟩ | ⟨-, h⟩ := ite_eq_iff.mp h
    · exact ⟨rfl, rfl, hmore⟩
    · obtain ⟨hlast, ⟨⟩⟩ | ⟨-, ⟨⟩⟩ := ite_eq_iff.mp h
      exact ⟨rfl, rfl, hlast⟩
  case awaitingChecksum =>
    obtain ⟨hb, ⟨⟩⟩ | ⟨hb, ⟨⟩⟩ := ite_eq_iff.mp h
    exacts [⟨rfl, rfl, beq_iff_eq.mpr hb⟩, ⟨rfl, rfl, bne_iff_ne.mpr hb⟩]
  case done | failed => cases h; exact ⟨rfl, rfl, rfl⟩

/-- The rows of a phase that emit, each with the extra condition its word leaves to the registers. -/
theorem encode_emit_of_phaseRow {ph : EncPhase} {s t : Bool} {n : EncLen} {c : SelCtx} {i : Instr} (hph : ph ≠ .encIdle)
    (h : phaseRow ph s t true n c = .ok i) :
    encode i = .e (phaseWord s t true ph) (canonicalEncLen t) ∧ i.wf = true ∧ i.registersAllow c = true := by
  rw [← emitPattern_eq]
  cases ph
  case encIdle => exact absurd rfl hph
  case encLength =>
    obtain ⟨hlen, ⟨⟩⟩ | ⟨hlen, ⟨⟩⟩ := ite_eq_iff.mp h
    exacts [⟨rfl, rfl, beq_iff_eq.mpr hlen⟩, ⟨rfl, rfl, bne_iff_ne.mpr hlen⟩]
  case encPayload =>
    obtain ⟨hmore, ⟨⟩⟩ | ⟨-, h⟩ := ite_eq_iff.mp h
    · exact ⟨rfl, rfl, hmore⟩
    · obtain ⟨hlast, ⟨⟩⟩ | ⟨-, ⟨⟩⟩ := ite_eq_iff.mp h
      exact ⟨rfl, rfl, hlast⟩
  case encStart | encChecksum | encEnd => cases h; exact ⟨rfl, rfl, rfl⟩

theorem encode_of_idleRow {s t y : Bool} {n : EncLen} {c : SelCtx} {i : Instr} (ht : tooLargeBit n = t)
    (h : phaseRow .encIdle s t y n c = .ok i) :
    (∃ m, encode i = .e (phaseWord s t y .encIdle) m) ∧ i.wf = true ∧ i.registersAllow c = true := by
  cases s
  case false => cases h; exact ⟨⟨_, encode_encIdle t y⟩, rfl, rfl⟩
  case true =>
    cases t
    case false => cases h; exact ⟨⟨_, encode_encStartOk y _⟩, rfl, rfl⟩
    case true => cases h; exact ⟨⟨_, encode_encStartTooLarge y n⟩, ht, rfl⟩

theorem encode_of_phaseRow {ph : EncPhase} {s t y : Bool} {n : EncLen} {c : SelCtx} {i : Instr} (ht : tooLargeBit n = t)
    (h : phaseRow ph s t y n c = .ok i) :
    (∃ m, encode i = .e (phaseWord s t y ph) m) ∧ i.wf = true ∧ i.registersAllow c = true := by
  by_cases hph : ph = .encIdle
  · subst hph; exact encode_of_idleRow ht h
  · cases y
    case true =>
      obtain ⟨henc, hwf, hc⟩ := encode_emit_of_phaseRow hph h
      exact ⟨⟨_, henc⟩, hwf, hc⟩
    case false =>
      cases (phaseRow_not_ready s t hph n c).symm.trans h
      exact ⟨⟨_, rfl⟩, bne_iff_ne.mpr hph, rfl⟩

/-- Settles O33: each shape of a word is the word of every row the decoder can read from it. -/
theorem encodeDecodeRoundTrip : Obligations.EncodeDecodeRoundTrip := by
  refine ⟨fun w c i h => ?_, fun w c i h => ?_, fun w n c i h => ?_⟩
  · cases w using wordD_shapes with
    | reset v code b => cases (decode_resetWord v code b c).symm.trans h; exact ⟨rfl, rfl, rfl⟩
    | idle code b => cases (decode_idleWord code b c).symm.trans h; exact ⟨rfl, rfl, rfl⟩
    | feed st b => exact encode_of_feedRow ((decode_feedWord st b c).symm.trans h)
    | illegal b => cases (decode_illegalState b c).symm.trans h; exact ⟨rfl, rfl, rfl⟩
  · cases w using wordK_shapes with
    | clr en b => cases (decode_ckClrWord en b c).symm.trans h; exact ⟨rfl, rfl⟩
    | add b => cases (decode_ckAddWord b c).symm.trans h; exact ⟨rfl, rfl⟩
    | hold b => cases (decode_ckHoldWord b c).symm.trans h; exact ⟨rfl, rfl⟩
  · have ht := (tooLargeBit_of_decodeE h).symm
    cases w using wordE_shapes with
    | reset s t y code =>
      rw [wordE_tooLarge] at ht
      cases (decode_encResetWord ht s y code c).symm.trans h
      exact ⟨⟨_, rfl⟩, rfl, rfl⟩
    | phase s t y ph =>
      rw [wordE_tooLarge] at ht
      exact encode_of_phaseRow ht ((decode_phaseWord ht s y ph c).symm.trans h)
    | illegal s t y l =>
      rw [wordE_tooLarge] at ht
      cases (decode_illegalPhaseWord ht s y l c).symm.trans h
      exact ⟨⟨_, congrArg (DispatchWord.e · _) (illphasePattern_eq s t y l)⟩, rfl, rfl⟩

end Sys2Proof.Machine
end

section
/-! The table of masks and matches tried in ascending priority (30_encoding.md R74, R86) selects, for each shape of a word,
the row that the decoder by fields reads. -/

namespace Sys2Proof.Machine

/-! ## One row of the table -/

@[simp] theorem selectRow_nil {n : Nat} (w : BitVec n) (c : SelCtx) (b : Byte) : selectRow [] w c b = none := rfl

@[simp] theorem selectRow_cons {n : Nat} (r : Row n) (rows : List (Row n)) (w : BitVec n) (c : SelCtx) (b : Byte) :
    selectRow (r :: rows) w c b =
      if r.fits w && r.cond.holds c b then some r.mnemonic else selectRow rows w c b := by
  simp only [selectRow, List.find?_cons]
  cases r.fits w && r.cond.holds c b <;> rfl

theorem append_eq_append_iff {m n : Nat} {x x' : BitVec m} {y y' : BitVec n} :
    x ++ y = x' ++ y' ↔ x = x' ∧ y = y' := by
  refine ⟨fun h => ⟨?_, ?_⟩, fun ⟨hx, hy⟩ => by rw [hx, hy]⟩
  · simpa [append_high] using congrArg (BitVec.extractLsb' n m) h
  · simpa only [append_low] using congrArg (BitVec.extractLsb' 0 n) h

/-- A row fits two fields side by side where it fits each. -/
theorem fits_append {m n : Nat} (r : Row (m + n)) (x : BitVec m) (y : BitVec n) :
    r.fits (x ++ y) = (x &&& r.mask.extractLsb' n m == r.pattern.extractLsb' n m &&
      y &&& r.mask.extractLsb' 0 n == r.pattern.extractLsb' 0 n) := by
  have hword : (x ++ y) &&& r.mask = (x &&& r.mask.extractLsb' n m) ++ (y &&& r.mask.extractLsb' 0 n) := by
    rw [← BitVec.and_append, word_split]
  rw [Row.fits, hword, Bool.eq_iff_iff, beq_iff_eq, Bool.and_eq_true, beq_iff_eq, beq_iff_eq, ← append_eq_append_iff,
    word_split]

theorem and_ones_byte (b : Byte) : b &&& 0xFF#8 = b := BitVec.and_allOnes

/-- The name of the row a decoding reads, none where it reads none. -/
def rowName (x : Except DecodeError Instr) : Option String := x.toOption.map Instr.mnemonic

@[simp] theorem rowName_ok (i : Instr) : rowName (.ok i) = some i.mnemonic := rfl

@[simp] theorem rowName_error (e : DecodeError) : rowName (.error e) = none := rfl

@[simp] theorem rowName_ite (p : Prop) [Decidable p] (x y : Except DecodeError Instr) :
    rowName (if p then x else y) = if p then rowName x else rowName y := apply_ite rowName p x y

/-! ## Format D -/

theorem fits_wordD (r : Row 13) (x : BitVec 5) (b : Byte) :
    r.fits (x ++ b) = (x &&& r.mask.extractLsb' 8 5 == r.pattern.extractLsb' 8 5 &&
      b &&& r.mask.extractLsb' 0 8 == r.pattern.extractLsb' 0 8) := fits_append (m := 5) (n := 8) r x b

theorem selectRow_resetWord (v : Bool) (code : BitVec 3) (b : Byte) (c : SelCtx) :
    selectRow rowsD (resetWord v code b) c b = some "RESET" := by
  have hrst : (0b1#1 ++ bit v ++ code) &&& 0x10#5 = 0x10#5 := by revert code; cases v <;> decide
  simp [rowsD, resetWord, fits_wordD, RowCond.holds, hrst]

theorem selectRow_idleWord (code : BitVec 3) (b : Byte) (c : SelCtx) :
    selectRow rowsD (idleWord code b) c b = some "IDLE" := by
  have hrst : (0b00#2 ++ code) &&& 0x10#5 = 0x00#5 := by revert code; decide
  have hvalid : (0b00#2 ++ code) &&& 0x18#5 = 0x00#5 := by revert code; decide
  simp [rowsD, idleWord, fits_wordD, RowCond.holds, hrst, hvalid]

theorem selectRow_feedWord (st : DecState) (b : Byte) (c : SelCtx) :
    selectRow rowsD (feedWord st b) c b = rowName (feedRow st b c) := by
  cases st
  case awaitingChecksum =>
    by_cases hb : b = c.checksumAcc <;>
      simp [rowsD, feedWord, fits_wordD, DecState.code, RowCond.holds, feedRow, Instr.mnemonic, hb]
  all_goals simp [rowsD, feedWord, fits_wordD, DecState.code, and_ones_byte, RowCond.holds, feedRow, Instr.mnemonic]

theorem selectRow_illegalState (b : Byte) (c : SelCtx) :
    selectRow rowsD (0b01111#5 ++ b) c b = some "FEED.ILLSTATE" := by
  simp [rowsD, fits_wordD, RowCond.holds]

/-! ## Format E -/

/-- The rows a word fits, with the conditions left to the registers. -/
def fitting {n : Nat} (rows : List (Row n)) (w : BitVec n) : List (String × RowCond) :=
  (rows.filter fun r => r.fits w).map fun r => (r.mnemonic, r.cond)

theorem selectRow_eq_find_fitting {n : Nat} (rows : List (Row n)) (w : BitVec n) (c : SelCtx) (b : Byte) :
    selectRow rows w c b = ((fitting rows w).find? fun r => r.2.holds c b).map Prod.fst := by
  simp [selectRow, fitting, List.find?_map, List.find?_filter, Function.comp_def]

theorem selectRow_encResetWord (s t y : Bool) (code : BitVec 3) (c : SelCtx) (b : Byte) :
    selectRow rowsE (encResetWord s t y code) c b = some "ENC.RESET" := by
  have hrst : encResetWord s t y code &&& 0x40#7 = 0x40#7 := by revert code; cases s <;> cases t <;> cases y <;> decide
  simp [rowsE, Row.fits, RowCond.holds, hrst]

theorem fitting_encLength (s t : Bool) : fitting rowsE (phaseWord s t true .encLength) =
    [("ENC.EMIT_LENGTH_NZ", .lenNonzero), ("ENC.EMIT_LENGTH_Z", .lenZero)] := by
  cases s <;> cases t <;> rfl

theorem fitting_encPayload (s t : Bool) : fitting rowsE (phaseWord s t true .encPayload) =
    [("ENC.EMIT_PAYLOAD_MORE", .encMore), ("ENC.EMIT_PAYLOAD_LAST", .encLast)] := by
  cases s <;> cases t <;> rfl

theorem fitting_not_ready (s t : Bool) {ph : EncPhase} (h : ph ≠ .encIdle) : fitting rowsE (phaseWord s t false ph) =
    [("ENC.STALL", .always)] := by
  cases ph
  case encIdle => exact absurd rfl h
  all_goals cases s <;> cases t <;> rfl

theorem selectRow_phaseWord (s t y : Bool) (ph : EncPhase) (n : EncLen) (c : SelCtx) (b : Byte) :
    selectRow rowsE (phaseWord s t y ph) c b = rowName (phaseRow ph s t y n c) := by
  rw [selectRow_eq_find_fitting]
  cases ph
  case encLength =>
    cases y
    case false => rw [fitting_not_ready s t (by simp)]; rfl
    case true =>
      rw [fitting_encLength]
      by_cases hlen : c.encLenR = 0x00#8 <;> simp [RowCond.holds, phaseRow, Instr.mnemonic, hlen]
  case encPayload =>
    cases y
    case false => rw [fitting_not_ready s t (by simp)]; rfl
    case true =>
      rw [fitting_encPayload]
      cases hmore : c.encMore <;> cases hlast : c.encLast <;>
        simp [RowCond.holds, phaseRow, Instr.mnemonic, hmore, hlast]
  all_goals cases y <;> cases s <;> cases t <;> rfl

theorem selectRow_illegalPhaseWord (s t y l : Bool) (c : SelCtx) (b : Byte) :
    selectRow rowsE (illegalPhaseWord s t y l) c b = some "ENC.ILLPHASE" := by
  cases s <;> cases t <;> cases y <;> cases l <;> rfl

/-! ## Format K -/

theorem fits_wordK (r : Row 10) (x : BitVec 2) (b : Byte) :
    r.fits (x ++ b) = (x &&& r.mask.extractLsb' 8 2 == r.pattern.extractLsb' 8 2 &&
      b &&& r.mask.extractLsb' 0 8 == r.pattern.extractLsb' 0 8) := fits_append (m := 2) (n := 8) r x b

/-- Settles O34: shape by shape, the table's first fitting row is the one the decoder reads. -/
theorem tableByPriorityIsTheDecoder : Obligations.TableByPriorityIsTheDecoder := by
  refine ⟨fun w c => ?_, fun w n c ht => ?_, fun w c => ?_⟩
  · cases w using wordD_shapes with
    | reset v code b => rw [decode_resetWord, wordD_byte, selectRow_resetWord]; rfl
    | idle code b => rw [decode_idleWord, wordD2_byte, selectRow_idleWord]; rfl
    | feed st b => rw [decode_feedWord, wordD2_byte, selectRow_feedWord]; rfl
    | illegal b => rw [decode_illegalState, wordD5_byte, selectRow_illegalState]; rfl
  · cases w using wordE_shapes with
    | reset s t y code =>
      rw [wordE_tooLarge] at ht
      rw [decode_encResetWord ht.symm, selectRow_encResetWord]; rfl
    | phase s t y ph =>
      rw [wordE_tooLarge] at ht
      rw [decode_phaseWord ht.symm, selectRow_phaseWord (n := n)]; rfl
    | illegal s t y l =>
      rw [wordE_tooLarge] at ht
      rw [decode_illegalPhaseWord ht.symm, selectRow_illegalPhaseWord]; rfl
  · cases w using wordK_shapes with
    | clr en b =>
      have hclr : (0b1#1 ++ bit en) &&& 0b10#2 = 0b10#2 := by cases en <;> decide
      simp [decode_ckClrWord, rowsK, fits_wordK, RowCond.holds, hclr, Except.toOption, Instr.mnemonic]
    | add b => simp [decode_ckAddWord, rowsK, fits_wordK, RowCond.holds, Except.toOption, Instr.mnemonic]
    | hold b => simp [decode_ckHoldWord, rowsK, fits_wordK, RowCond.holds, Except.toOption, Instr.mnemonic]

end Sys2Proof.Machine
end

section
/-! Rows and steps: a row completes exactly where it is selected, the rows of a clock edge are selected by the registers their
words were formed from, and a whole word runs its row. -/

namespace Sys2Proof.Machine

open Sys2Proof.Safety

/-! ## A row completes where it is selected -/

theorem onlyIf_of_not_selected {p : Bool} {r : Result} (h : p = false) : onlyIf p r = .refused .rowNotSelected := by
  simp [onlyIf, h]

theorem exec_of_not_selected {i : Instr} {s : State} (h : selected i s = false) :
    exec i s = .refused .rowNotSelected ∨ exec i s = .refused .illegalStateCode ∨
      exec i s = .refused .illegalPhaseCode := by
  cases i
  case feedIllstate => exact .inr (.inl rfl)
  case encIllphase => exact .inr (.inr rfl)
  case reset | idle | result | rdPayload | encReset | ckClr | ckAdd | ckHold | encode | cksum8 => cases h
  all_goals exact .inl (onlyIf_of_not_selected h)

/-- Settles O39. -/
theorem selectedRowsComplete : Obligations.SelectedRowsComplete :=
  fun i s => ⟨fun h => ⟨effect i s, exec_next_iff.mpr ⟨h, rfl⟩⟩, exec_of_not_selected⟩

/-! ## A word given whole, and a table word put in place -/

/-- Settles O36. -/
theorem stepRunsTheDecodedWord : Obligations.StepRunsTheDecodedWord := fun s w _ rest h => step_word s w rest h

@[simp] theorem alignRegisters_inputs (w : DispatchWord) (s : State) : (alignRegisters w s).inputs = s.inputs := by
  unfold alignRegisters
  repeat' split
  all_goals rfl

/-- The registers that `alignRegisters` sets are those a FEED row's condition reads. -/
theorem feedRow_alignRegisters (st : DecState) (b : Byte) (s : State) :
    feedRow st b (selCtx (alignRegisters (.d (feedWord st b)) s)) = feedRow st b tableCtx := by
  cases st <;> simp [alignRegisters, feedRow, SelCtx.payloadMore, SelCtx.payloadLast]

theorem phaseRow_alignRegisters (ph : EncPhase) (s t y : Bool) (n : EncLen) (u : State) :
    phaseRow ph s t y n (selCtx (alignRegisters (.e (phaseWord s t y ph) n) u)) = phaseRow ph s t y n tableCtx := by
  obtain ⟨h0, h3, -, -, h6⟩ := wordE_fields false s t y ph.code
  cases ph <;> cases y <;>
    simp [alignRegisters, phaseRow, SelCtx.encMore, SelCtx.encLast, h0, h3, h6, -BitVec.getLsbD_eq_getElem]

/-- A word is read against the registers aligned with it as it is read against the table's (log 2). -/
theorem decode_alignRegisters {w : DispatchWord} {i : Instr} (h : decode w tableCtx = .ok i) (s : State) :
    decode w (selCtx (alignRegisters w s)) = .ok i := by
  cases w
  case d w =>
    cases w using wordD_shapes with
    | reset v code b => rwa [decode_resetWord] at h ⊢
    | idle code b => rwa [decode_idleWord] at h ⊢
    | feed st b => rwa [decode_feedWord, feedRow_alignRegisters, ← decode_feedWord]
    | illegal b => rwa [decode_illegalState] at h ⊢
  case e w n =>
    have ht := (tooLargeBit_of_decodeE h).symm
    cases w using wordE_shapes with
    | reset s t y code =>
      rw [wordE_tooLarge] at ht
      rwa [decode_encResetWord ht] at h ⊢
    | phase s t y ph =>
      rw [wordE_tooLarge] at ht
      rwa [decode_phaseWord ht, phaseRow_alignRegisters, ← decode_phaseWord ht]
    | illegal s t y l =>
      rw [wordE_tooLarge] at ht
      rwa [decode_illegalPhaseWord ht] at h ⊢
  all_goals exact h

/-- Settles O38: the word put in place is read as the table reads it, and then its row runs. -/
theorem fetchWordRunsNext : Obligations.FetchWordRunsNext := by
  intro s nbits w dw i hdw hi
  have hdec : decode dw tableCtx = .ok i := by
    simp only [decodeTableWord, hdw, Option.bind_some] at hi
    cases hd : decode dw tableCtx with
    | ok j => rw [hd] at hi; cases hi; rfl
    | error x => rw [hd] at hi; cases hi
  have hplace : s.withFetchWord nbits w = { alignRegisters dw s with inputs := .word dw :: s.inputs } := by
    simp [State.withFetchWord, placeFetchWord, hdw, State.setInputs]
  rw [hplace, step_word _ dw s.inputs (decode_alignRegisters hdec s), ← alignRegisters_inputs dw s]

/-! ## The rows of a clock edge -/

theorem selected_of_feedRow {s : State} {b : Byte} {i : Instr} (h : feedRow s.dec.state b (selCtx s) = .ok i) :
    selected i s = true := by
  cases hs : s.dec.state <;> rw [hs] at h
  case awaitingStart | awaitingLength | awaitingEnd =>
    obtain ⟨hb, ⟨⟩⟩ | ⟨hb, ⟨⟩⟩ := ite_eq_iff.mp h <;> simp [selected, hs, hb]
  case awaitingChecksum => obtain ⟨hb, ⟨⟩⟩ | ⟨hb, ⟨⟩⟩ := ite_eq_iff.mp h <;> simpa [selected, hs] using hb
  case awaitingPayload =>
    obtain ⟨hmore, ⟨⟩⟩ | ⟨-, h⟩ := ite_eq_iff.mp h
    · simpa [selected, hs] using hmore
    · obtain ⟨hlast, ⟨⟩⟩ | ⟨-, ⟨⟩⟩ := ite_eq_iff.mp h
      simpa [selected, hs] using hlast
  case done | failed => cases h; simp [selected, hs]

theorem selected_of_phaseRow {s : State} {st t y : Bool} {n : EncLen} {j : Instr} (ht : tooLargeBit n = t)
    (h : phaseRow s.enc.phase st t y n (selCtx s) = .ok j) : selected j s = true := by
  by_cases hidle : s.enc.phase = .encIdle
  · rw [hidle] at h
    cases st
    case false => cases h; simp [selected, hidle]
    case true => cases t <;> cases h <;> simp [selected, hidle, ht]
  · cases y
    case false =>
      cases (phaseRow_not_ready st t hidle n _).symm.trans h
      simp [selected, hidle]
    case true =>
      cases hph : s.enc.phase <;> rw [hph] at h
      case encIdle => exact absurd hph hidle
      case encLength => obtain ⟨hlen, ⟨⟩⟩ | ⟨hlen, ⟨⟩⟩ := ite_eq_iff.mp h <;> simpa [selected, hph] using hlen
      case encPayload =>
        obtain ⟨hmore, ⟨⟩⟩ | ⟨-, h⟩ := ite_eq_iff.mp h
        · simpa [selected, hph] using hmore
        · obtain ⟨hlast, ⟨⟩⟩ | ⟨-, ⟨⟩⟩ := ite_eq_iff.mp h
          simpa [selected, hph] using hlast
      case encStart | encChecksum | encEnd => cases h; simp [selected, hph]

/-- INV3 rules out the words that select no row (R76). -/
theorem exists_feedRow {s : State} (h : Inv3 s.dec) (b : Byte) : ∃ i, feedRow s.dec.state b (selCtx s) = .ok i := by
  cases hs : s.dec.state
  case awaitingPayload =>
    obtain ⟨-, hcursor⟩ := h hs
    by_cases hmore : (selCtx s).payloadMore = true
    · exact ⟨_, if_pos hmore⟩
    · have hlast : (selCtx s).payloadLast = true := by
        simp only [selCtx_payloadMore, selCtx_payloadLast, decide_eq_true_eq] at hmore ⊢
        omega
      exact ⟨_, (if_neg hmore).trans (if_pos hlast)⟩
  case done | failed => exact ⟨_, rfl⟩
  all_goals simp only [feedRow]; split <;> exact ⟨_, rfl⟩

/-- In the payload phase the cursor is below the length, so no word goes without a row (R142). -/
theorem exists_phaseRow {s : State} (h : s.enc.phase = .encPayload → s.enc.cursor.toNat < s.enc.lenR.toNat)
    (st t y : Bool) (n : EncLen) : ∃ j, phaseRow s.enc.phase st t y n (selCtx s) = .ok j := by
  cases hph : s.enc.phase
  case encPayload =>
    have hcursor := h hph
    cases y
    case false => exact ⟨_, rfl⟩
    case true =>
      by_cases hmore : (selCtx s).encMore = true
      · exact ⟨_, if_pos hmore⟩
      · have hlast : (selCtx s).encLast = true := by
          simp only [selCtx_encMore, selCtx_encLast, decide_eq_true_eq] at hmore ⊢
          omega
        exact ⟨_, (if_neg hmore).trans (if_pos hlast)⟩
  case encLength =>
    cases y
    case false => exact ⟨_, rfl⟩
    case true =>
      by_cases hlen : (selCtx s).encLenR = 0x00#8
      · exact ⟨_, if_pos hlen⟩
      · exact ⟨_, if_neg hlen⟩
  all_goals cases st <;> cases t <;> cases y <;> exact ⟨_, rfl⟩

theorem exists_decoderRow {s : State} (h : Inv3 s.dec) (p : DecPins) :
    ∃ i, decode (.d (dispatchWordD p s.dec.state)) (selCtx s) = .ok i ∧ selected i s = true := by
  obtain ⟨r, v, b⟩ := p
  cases r
  case true => rw [dispatchWordD_reset, decode_resetWord]; exact ⟨_, rfl, rfl⟩
  case false =>
    cases v
    case false => rw [dispatchWordD_idle, decode_idleWord]; exact ⟨_, rfl, rfl⟩
    case true =>
      rw [dispatchWordD_feed, decode_feedWord]
      obtain ⟨i, hi⟩ := exists_feedRow h b
      exact ⟨i, hi, selected_of_feedRow hi⟩

theorem exists_encoderRow {s : State} (h : EncoderInv s) (p : EncPins) :
    ∃ j, decode (.e (dispatchWordE p s.enc.phase) p.len) (selCtx s) = .ok j ∧ selected j s = true := by
  obtain ⟨r, st, n, y⟩ := p
  cases r
  case true => rw [dispatchWordE_reset, decode_encResetWord rfl]; exact ⟨_, rfl, rfl⟩
  case false =>
    rw [dispatchWordE_phase, decode_phaseWord rfl]
    obtain ⟨j, hj⟩ := exists_phaseRow h.inside st (tooLargeBit n) y n
    exact ⟨j, hj, selected_of_phaseRow rfl hj⟩

theorem exists_ckRow (s : State) (p : CkPins) :
    ∃ l, decode (.k (dispatchWordK p)) (selCtx s) = .ok l ∧ selected l s = true := by
  refine ⟨_, decode_dispatchWordK p _, ?_⟩
  obtain ⟨clr, en, b⟩ := p
  cases clr <;> cases en <;> rfl

/-! ## The formats of the rows read -/

theorem format_of_encode_e {i : Instr} {w : BitVec 7} {n : EncLen} (h : encode i = .e w n) : i.format = .e := by
  cases i <;> cases h <;> rfl

theorem format_of_encode_k {i : Instr} {w : BitVec 10} (h : encode i = .k w) : i.format = .k := by
  cases i <;> cases h <;> rfl

theorem format_of_decodeE {w : BitVec 7} {n : EncLen} {c : SelCtx} {i : Instr} (h : decode (.e w n) c = .ok i) :
    i.format = .e := by
  obtain ⟨-, -, hE⟩ := encodeDecodeRoundTrip
  obtain ⟨⟨m, henc⟩, -, -⟩ := hE w n c i h
  exact format_of_encode_e henc

theorem format_of_decodeK {w : BitVec 10} {c : SelCtx} {i : Instr} (h : decode (.k w) c = .ok i) : i.format = .k := by
  obtain ⟨-, hK, -⟩ := encodeDecodeRoundTrip
  obtain ⟨henc, -⟩ := hK w c i h
  exact format_of_encode_k henc

/-! ## A clock edge completes -/

/-- Rows of the three blocks, each selected before the first of them runs, run through. -/
theorem runOps_blocks {i j l : Instr} {s : State} (hi : i.format = .d) (hj : j.format = .e) (hl : l.format = .k)
    (hsi : selected i s = true) (hsj : selected j s = true) (hsl : selected l s = true) :
    runOps [i, j, l] s = .next (effect l (effect j (effect i s))) := by
  have hsj' : selected j (effect i s) = true := by
    rwa [selected_effect (.inr (.inl hj)) (.inl hi) (by simp [hi, hj])]
  have hsl' : selected l (effect j (effect i s)) = true := by
    rwa [selected_effect (.inr (.inr hl)) (.inr (.inl hj)) (by simp [hj, hl]),
      selected_effect (.inr (.inr hl)) (.inl hi) (by simp [hi, hl])]
  rw [runOps_cons_of_next (exec_next_iff.mpr ⟨hsi, rfl⟩), runOps_cons_of_next (exec_next_iff.mpr ⟨hsj', rfl⟩),
    runOps_cons_of_next (exec_next_iff.mpr ⟨hsl', rfl⟩), runOps_nil]

/-- Settles O40: the invariant rules out the words without a row, and the three blocks' rows do not disturb each other. -/
theorem everyEdgeCompletes : Obligations.EveryEdgeCompletes := by
  intro s w d e k rest hinv
  obtain ⟨i, hi, hsi⟩ := exists_decoderRow hinv.decoder.inv3 (wiredPins w d e s)
  obtain ⟨j, hj, hsj⟩ := exists_encoderRow hinv.encoder e
  obtain ⟨l, hl, hsl⟩ := exists_ckRow s k
  have hops : edgeOps w d e k s = .ok [i, j, l] := edgeOps_eq_ok.mpr ⟨i, j, l, hi, hj, hl, rfl⟩
  refine ⟨⟨i, j, l, hops, hsi, hsj, hsl⟩, ?_⟩
  rw [step_edge s w d e k rest hops]
  exact ⟨_, runOps_blocks (s := { s with inputs := rest }) (format_of_decodeD hi) (format_of_decodeE hj)
    (format_of_decodeK hl) hsi hsj hsl⟩

/-! ## The state by class matrix -/

/-- The effect of the row a fed byte selects moves the state along the matrix (R85). -/
theorem nextState_of_feedRow {s : State} {b : Byte} {i : Instr} (h : feedRow s.dec.state b (selCtx s) = .ok i) :
    nextState s.dec.state (inputClass s.dec.state b) (b == 0x00#8)
      (decide (s.dec.writeCursor.toNat + 1 = s.dec.declaredLength.toNat)) (b == s.dec.checksumAcc) =
      some (effect i s).dec.state := by
  cases hs : s.dec.state <;> rw [hs] at h
  case awaitingStart | awaitingLength | awaitingChecksum | awaitingEnd =>
    obtain ⟨hb, ⟨⟩⟩ | ⟨hb, ⟨⟩⟩ := ite_eq_iff.mp h <;> simp_all [inputClass, nextState, effect]
  case awaitingPayload =>
    obtain ⟨hmore, ⟨⟩⟩ | ⟨-, h⟩ := ite_eq_iff.mp h
    · have hmore' : s.dec.writeCursor.toNat + 1 < s.dec.declaredLength.toNat := by simpa using hmore
      simp [inputClass, nextState, effect, appended, hmore'.ne]
    · obtain ⟨hlast, ⟨⟩⟩ | ⟨-, ⟨⟩⟩ := ite_eq_iff.mp h
      have hlast' : s.dec.writeCursor.toNat + 1 = s.dec.declaredLength.toNat := by simpa using hlast
      simp [inputClass, nextState, effect, appended, hlast']
  case done | failed => cases h; simp [inputClass, nextState, effect, hs]

/-- A row of another block leaves the decoder as it was (R9). -/
theorem exec_keeps_dec {j : Instr} {s t : State} (hj : j.format = .e ∨ j.format = .k) (h : exec j s = .next t) :
    t.dec = s.dec := by
  obtain ⟨-, rfl⟩ := exec_next_iff.mp h
  exact sameBlock_effect (f := .d) (.inl rfl) (.inr hj) (by rcases hj with hj | hj <;> simp [hj]) s

/-- Settles O20: the decoder's row is the only one of the edge that moves the decoder. -/
theorem feedFollowsTheClassMatrix : Obligations.FeedFollowsTheClassMatrix := by
  intro s t b rest _ h
  obtain ⟨i, j, l, u, v, hi, hj, hl, hu, hv, ht⟩ := step_edge_eq_next h
  have hrow : feedRow s.dec.state b (selCtx s) = .ok i := by
    have hpins : wiredPins .driven (DecPins.feed b) EncPins.quiet s = ⟨false, true, b⟩ := rfl
    rwa [hpins, dispatchWordD_feed, decode_feedWord] at hi
  obtain ⟨-, rfl⟩ := exec_next_iff.mp hu
  rw [exec_keeps_dec (.inr (format_of_decodeK hl)) ht, exec_keeps_dec (.inl (format_of_decodeE hj)) hv]
  exact nextState_of_feedRow (s := { s with inputs := rest }) hrow

/-! ## The frame, and words of the spec's programs -/

/-- Settles O30. -/
theorem encodeBuildsTheFrame : Obligations.EncodeBuildsTheFrame :=
  fun _ => ⟨fun h => if_pos h, fun h => if_neg (Nat.not_lt.mpr h)⟩

/-- Settles O35: each word decodes by evaluation, whatever the registers are. -/
theorem wordsReadAsTheSpecSays : Obligations.WordsReadAsTheSpecSays :=
  fun _ => ⟨rfl, rfl, rfl, rfl, rfl, rfl, rfl, rfl, rfl, rfl, rfl, rfl, rfl, rfl, rfl⟩

end Sys2Proof.Machine
end

section
/-! The checksum generator (40_checksum.md R90 to R95): its three operations, the function CKSUM8, and the commands that the
operations give the two private instances; and the answers of the reads and functions (log 7). -/

namespace Sys2Proof.Machine

/-! ## The stand-alone unit -/

/-- Settles O1. -/
theorem ckClrClearsTheSum : Obligations.CkClrClearsTheSum :=
  fun en b c _ => ⟨decode_ckClrWord en b c, (exec_ckClr_eq_next en b).mpr rfl⟩

/-- Settles O2: the unit's addition of bytes, seen in the naturals. -/
theorem ckAddSumsModulo256 : Obligations.CkAddSumsModulo256 := by
  intro b c s
  have hsum : BitVec.ofNat 8 ((s.ck.toNat + b.toNat) % 256) = s.ck + b := by
    rw [← ck8Add_toNat, BitVec.ofNat_toNat, BitVec.setWidth_eq, ck8Add_eq]
  refine ⟨decode_ckAddWord b c, (exec_ckAdd_eq_next b).mpr ?_⟩
  rw [hsum]
  rfl

/-- Settles O3. -/
theorem ckHoldKeepsTheSum : Obligations.CkHoldKeepsTheSum :=
  fun b c _ => ⟨decode_ckHoldWord b c, (exec_ckHold_eq_next b).mpr rfl⟩

/-- One CK.ADD per byte adds the list's sum to the register. -/
theorem runOps_map_ckAdd (l : List Byte) (s : State) :
    runOps (l.map Instr.ckAdd) s = .next (s.setCk (s.ck + sum8 l)) := by
  induction l generalizing s with
  | nil => simp [State.setCk]
  | cons b l ih =>
    rw [List.map_cons, runOps_cons_of_next ((exec_ckAdd_eq_next b).mpr rfl), ih]
    simp [State.setCk, BitVec.add_assoc]

theorem runOps_ckClr_map_ckAdd (l : List Byte) (en : Bool) (b : Byte) (s : State) :
    runOps (.ckClr en b :: l.map Instr.ckAdd) s = .next (s.setCk (cksum8Of l)) := by
  rw [runOps_cons_of_next ((exec_ckClr_eq_next en b).mpr rfl), runOps_map_ckAdd]
  simp [State.setCk, cksum8Of]

/-! ## The function CKSUM8 -/

/-- `sum8` is the sum in the ring of bytes, so the library's facts about sums are facts about it. -/
theorem cksum8Of_eq_sum (l : List Byte) : cksum8Of l = l.sum := by
  induction l with
  | nil => rfl
  | cons b l ih => exact congrArg (b + ·) ih

theorem toNat_cksum8Of (l : List Byte) : (cksum8Of l).toNat = (l.map BitVec.toNat).sum % 256 := by
  induction l with
  | nil => rfl
  | cons b l ih =>
    have hcons : (cksum8Of (b :: l)).toNat = (b.toNat + (cksum8Of l).toNat) % 256 := BitVec.toNat_add b (sum8 l)
    rw [hcons, ih, Nat.add_mod_mod, List.map_cons, List.sum_cons]

theorem cksum8Of_perm {l k : List Byte} (h : l.Perm k) : cksum8Of l = cksum8Of k := by
  rw [cksum8Of_eq_sum, cksum8Of_eq_sum, h.sum_eq]

/-- A byte replaced moves the sum by the difference of the two bytes. -/
theorem cksum8Of_set {l : List Byte} {i : Nat} (h : i < l.length) (b : Byte) :
    cksum8Of (l.set i b) = cksum8Of l + (-l[i] + b) := by
  rw [cksum8Of_eq_sum, cksum8Of_eq_sum, List.sum_set', dif_pos h]

theorem cksum8Of_set_ne {l : List Byte} {i : Nat} {b : Byte} (h : i < l.length) (hne : l[i] ≠ b) :
    cksum8Of (l.set i b) ≠ cksum8Of l := by
  rw [cksum8Of_set h, Ne, add_eq_left, neg_add_eq_zero]
  exact hne

/-- After START, LENGTH and the payload comes the checksum (R70). -/
theorem frameBytes_getElem?_cksum (p : List Byte) : (frameBytes p)[p.length + 2]? = some (cksum8Of p) := by
  simp [frameBytes]

/-- Settles O4. -/
theorem checksumOfAList : Obligations.ChecksumOfAList := by
  refine ⟨toNat_cksum8Of, rfl, runOps_ckClr_map_ckAdd, fun _ _ => cksum8Of_perm, fun l i b hi hne => ?_,
    fun p _ => frameBytes_getElem?_cksum p⟩
  rw [List.getElem?_eq_getElem hi] at hne
  exact cksum8Of_set_ne hi fun h => hne (congrArg some h)

/-! ## What the operations command of each instance (R90) -/

theorem checksumAcc_effect_eq_ck8Step (i : Instr) (s : State) :
    (effect i s).dec.checksumAcc = ck8Step (decoderCkCommand i).1 s.dec.checksumAcc (decoderCkCommand i).2 := by
  cases i
  case feedPayloadMore b | feedPayloadLast b => exact (ck8Add_eq s.dec.checksumAcc b).symm
  all_goals rfl

theorem acc_effect_eq_ck8Step (i : Instr) (s : State) :
    (effect i s).enc.acc = ck8Step (encoderCkCommand s i).1 s.enc.acc (encoderCkCommand s i).2 := by
  cases i <;> rfl

/-- Only the operations of format K reach the stand-alone unit. -/
theorem ck_effect_of_format_ne_k {i : Instr} (hf : i.format ≠ .k) (s : State) : (effect i s).ck = s.ck := by
  cases i
  case ckClr | ckAdd | ckHold => exact absurd rfl hf
  all_goals rfl

/-- The command of a word of format K (R78): `ck_clr` wins over `ck_en`. -/
theorem ck_effect_of_decodeK {kw : BitVec 10} {c : SelCtx} {i : Instr} (h : decode (.k kw) c = .ok i) (s : State) :
    (effect i s).ck =
      ck8Step (if kw.getLsbD 9 then .clr else if kw.getLsbD 8 then .add else .hold) s.ck (kw.extractLsb' 0 8) := by
  cases kw using wordK_shapes with
  | clr en b => rw [decode_ckClrWord] at h; cases h; simp [effect, ck8Step]
  | add b => rw [decode_ckAddWord] at h; cases h; simp [effect, ck8Step]
  | hold b => rw [decode_ckHoldWord] at h; cases h; simp [effect, ck8Step]

/-- Settles O5. -/
theorem operationsCommandTheirChecksumUnit : Obligations.OperationsCommandTheirChecksumUnit := by
  intro i s t h
  obtain ⟨-, rfl⟩ := exec_next_iff.mp h
  exact ⟨checksumAcc_effect_eq_ck8Step i s, acc_effect_eq_ck8Step i s, fun hf => ck_effect_of_format_ne_k hf s,
    fun _ _ hk => ck_effect_of_decodeK hk s⟩

/-! ## The answers of the reads and the functions (log 7) -/

/-- Settles O18: inside its window RDPAYLOAD answers `rd_data`, outside it the next free value. -/
theorem readingOperationsAnswer : Obligations.ReadingOperationsAnswer := by
  refine fun s => ⟨exec_result_eq_next.mpr rfl, fun a b hb => ?_, fun a hnone => ?_,
    fun p => (exec_encode_eq_next p).mpr rfl, fun l => (exec_cksum8_eq_next l).mpr rfl⟩
  · exact (exec_rdPayload_eq_next a).mpr (.inl ⟨b, hb, rfl⟩)
  · exact ⟨Config.unspecifiedRdData s.draws, s.draws + 1,
      (exec_rdPayload_eq_next a).mpr (.inr ⟨hnone, rfl⟩)⟩

end Sys2Proof.Machine
end

section
/-! The rows of the decoder one by one (41_decoder.md R100 to R113): the word that selects each, the state it leaves, and the
edges of the state graph (R118). -/

namespace Sys2Proof.Machine

theorem exec_of_selected {i : Instr} {s : State} (h : selected i s = true) : exec i s = .next (effect i s) :=
  exec_next_iff.mpr ⟨h, rfl⟩

/-- The sum of two bytes as R93 writes it, in the naturals. -/
theorem ofNat_add_mod_byte (a b : Byte) : BitVec.ofNat 8 ((a.toNat + b.toNat) % 256) = a + b := by
  rw [← ck8Add_toNat, BitVec.ofNat_toNat, BitVec.setWidth_eq, ck8Add_eq]

/-! ## RESET and IDLE -/

/-- Settles O6. -/
theorem resetStartsAfresh : Obligations.ResetStartsAfresh := fun v code b c s =>
  ⟨decode_resetWord v code b c, resetDecoder s, (exec_reset_eq_next v code b).mpr rfl, rfl, rfl,
    logicalContents_of_cursor_zero rfl, (exec_reset_eq_next v code b).mpr rfl⟩

/-- A row that changes nothing changes nothing when it is repeated. -/
theorem runOps_replicate {i : Instr} {s : State} (h : exec i s = .next s) (n : Nat) :
    runOps (List.replicate n i) s = .next s := by
  induction n with
  | zero => rfl
  | succ n ih => rw [List.replicate_succ, runOps_cons_of_next h, ih]

/-- Settles O7. -/
theorem idleChangesNothing : Obligations.IdleChangesNothing := fun code b c s n =>
  have h : exec (.idle code b) s = .next s := (exec_idle_eq_next code b).mpr rfl
  ⟨decode_idleWord code b c, h, runOps_replicate h n⟩

/-! ## The FEED rows -/

/-- Settles O8. -/
theorem startByteDecides : Obligations.StartByteDecides := by
  refine fun b c s hs => ⟨⟨decode_feedWord .awaitingStart Config.START c, _,
    exec_of_selected (by simp [selected, hs]), rfl, rfl⟩, fun hb => ⟨?_, _, exec_of_selected ?_, rfl, rfl⟩⟩
  · exact decodeEncodeRoundTrip (.feedStartBad b) c (bne_iff_ne.mpr hb) rfl
  · simp [selected, hs, hb]

/-- Settles O9. -/
theorem lengthByteIsLatched : Obligations.LengthByteIsLatched := by
  refine fun b c s hs => ⟨⟨decode_feedWord .awaitingLength 0x00#8 c, _,
    exec_of_selected (by simp [selected, hs]), rfl, rfl⟩, fun hb => ⟨?_, _, exec_of_selected ?_, rfl, rfl⟩⟩
  · exact decodeEncodeRoundTrip (.feedLenNonzero b) c (bne_iff_ne.mpr hb) rfl
  · simp [selected, hs, hb]

/-- Settles O10: the appended state, with the sum in the naturals and the cursor's increment inside the byte. -/
theorem payloadByteIsAppended : Obligations.PayloadByteIsAppended := by
  intro b s hs hmore
  have hallow : (selCtx s).payloadMore = true := decide_eq_true hmore
  refine ⟨decodeEncodeRoundTrip (.feedPayloadMore b) (selCtx s) rfl hallow, appended b .awaitingPayload s,
    exec_of_selected (by simp [selected, hs, hmore]), ?_, succ_toNat_of_lt (cursor_lt_of_payloadMore hallow),
    bufRead_appended b _ s, rfl⟩
  rw [ofNat_add_mod_byte, ← hs]
  rfl

/-- Settles O11: as O10; the cursor meets the declared length. -/
theorem lastPayloadByteEndsTheField : Obligations.LastPayloadByteEndsTheField := by
  intro b s hs hlast
  have hallow : (selCtx s).payloadLast = true := decide_eq_true hlast
  have hsucc : (s.dec.writeCursor + 1).toNat = s.dec.writeCursor.toNat + 1 :=
    succ_toNat_of_lt (cursor_lt_of_payloadLast hallow)
  have hcursor : s.dec.declaredLength = s.dec.writeCursor + 1 := BitVec.eq_of_toNat_eq (hlast.symm.trans hsucc.symm)
  refine ⟨decodeEncodeRoundTrip (.feedPayloadLast b) (selCtx s) rfl hallow, appended b .awaitingChecksum s,
    exec_of_selected (by simp [selected, hs, hlast]), ?_, hsucc, bufRead_appended b _ s, rfl⟩
  rw [ofNat_add_mod_byte, hcursor]
  rfl

/-- Settles O12. -/
theorem checksumByteDecides : Obligations.ChecksumByteDecides := by
  refine fun b s hs => ⟨fun hb => ⟨?_, _, exec_of_selected ?_, rfl, rfl⟩,
    fun hb => ⟨?_, _, exec_of_selected ?_, rfl, rfl, rfl⟩⟩
  · exact decodeEncodeRoundTrip (.feedCksumOk b) (selCtx s) rfl (beq_iff_eq.mpr hb)
  · simp [selected, hs, hb]
  · exact decodeEncodeRoundTrip (.feedCksumBad b) (selCtx s) rfl (bne_iff_ne.mpr hb)
  · simp [selected, hs, hb]

/-- Settles O13: FEED.END_OK opens the read port's window over the cells as they stand. -/
theorem endByteDecides : Obligations.EndByteDecides := by
  refine fun b c s hs => ⟨⟨decode_feedWord .awaitingEnd Config.END c, effect .feedEndOk s,
    exec_of_selected (by simp [selected, hs]), rfl, rfl, rfl, fun a ha => ?_⟩,
    fun hb => ⟨?_, _, exec_of_selected ?_, rfl, rfl⟩⟩
  · exact (rdData_eq_ite _ a).trans (if_pos ⟨rfl, ha⟩)
  · exact decodeEncodeRoundTrip (.feedEndBad b) c (bne_iff_ne.mpr hb) rfl
  · simp [selected, hs, hb]

/-- Settles O14. -/
theorem terminalStatesAbsorbEveryByte : Obligations.TerminalStatesAbsorbEveryByte := fun b c s =>
  ⟨⟨decode_feedWord .done b c, fun hs => ⟨exec_of_selected (by simp [selected, hs]), verdict_of_done hs⟩⟩,
    decode_feedWord .failed b c, fun hs => ⟨exec_of_selected (by simp [selected, hs]), verdict_of_failed hs⟩⟩

/-! ## The state graph -/

/-- Settles O49: a row that moves the decoder's state needs the state its edge leaves. -/
theorem stateGraphHasNoOtherEdges : Obligations.StateGraphHasNoOtherEdges := by
  intro i s t h hne
  obtain ⟨hsel, rfl⟩ := exec_next_iff.mp h
  cases i
  case reset v c b => exact .inl ⟨⟨v, c, b, rfl⟩, rfl⟩
  case feedStartOk | feedStartBad | feedLenZero | feedLenNonzero | feedPayloadLast | feedCksumOk | feedCksumBad |
      feedEndOk | feedEndBad =>
    simp only [selected, Bool.and_eq_true, beq_iff_eq] at hsel
    simp [effect, appended, hsel]
  case feedPayloadMore b =>
    exact absurd ((state_effect rfl hsel).resolve_right fun ⟨_, h, _⟩ => h b rfl) hne
  all_goals exact absurd rfl hne

end Sys2Proof.Machine
end

section
/-! FEED as one function (41_decoder.md R115): what it does in each state, that a step of FEED is this function, and lists of
fed bytes. -/

namespace Sys2Proof.Machine

open Sys2Proof.Safety

/-! ## The function by states -/

section
variable {d : Decoder} {b : Byte}

theorem feed_of_awaitingStart (h : d.state = .awaitingStart) : feed b d =
    if b = Config.START then d.setState .awaitingLength else (d.setState .failed).setFailCause false := by
  simp only [feed, h]; rfl

theorem feed_of_awaitingLength (h : d.state = .awaitingLength) : feed b d =
    (d.setDeclaredLength b).setState (if 0 < b.toNat then .awaitingPayload else .awaitingChecksum) := by
  simp only [feed, h]; rfl

theorem feed_of_awaitingPayload (h : d.state = .awaitingPayload) : feed b d =
    (((d.setBuffer (memWrite d.buffer d.writeCursor.toNat b)).setChecksumAcc (d.checksumAcc + b)).setWriteCursor
      (d.writeCursor + 1)).setState
      (if d.writeCursor.toNat + 1 = d.declaredLength.toNat then .awaitingChecksum else .awaitingPayload) := by
  simp only [feed, h, ofNat_add_mod_byte]; rfl

theorem feed_of_awaitingChecksum (h : d.state = .awaitingChecksum) : feed b d =
    if b = d.checksumAcc then d.setState .awaitingEnd else (d.setState .failed).setFailCause true := by
  simp only [feed, h]; rfl

theorem feed_of_awaitingEnd (h : d.state = .awaitingEnd) : feed b d =
    if b = Config.END then d.setState .done else (d.setState .failed).setFailCause false := by
  simp only [feed, h]; rfl

theorem feed_of_terminal (h : d.state = .done ∨ d.state = .failed) : feed b d = d := by
  obtain h | h := h <;> simp only [feed, h]

end

/-! ## A step of FEED -/

/-- The row that a fed byte selects does to the decoder what the function says, and nothing else. -/
theorem effect_of_feedRow {s : State} {b : Byte} {i : Instr} (h : feedRow s.dec.state b (selCtx s) = .ok i) :
    effect i s = s.setDec (feed b s.dec) := by
  cases hs : s.dec.state <;> rw [hs] at h
  case awaitingStart =>
    rw [feed_of_awaitingStart hs]
    obtain ⟨hb, ⟨⟩⟩ | ⟨hb, ⟨⟩⟩ := ite_eq_iff.mp h
    exacts [congrArg s.setDec (if_pos hb).symm, congrArg s.setDec (if_neg hb).symm]
  case awaitingLength =>
    rw [feed_of_awaitingLength hs]
    obtain ⟨rfl, ⟨⟩⟩ | ⟨hb, ⟨⟩⟩ := ite_eq_iff.mp h
    · rfl
    · rw [if_pos (toNat_pos_of_ne_zero hb)]; rfl
  case awaitingPayload =>
    rw [feed_of_awaitingPayload hs]
    obtain ⟨hmore, ⟨⟩⟩ | ⟨-, h⟩ := ite_eq_iff.mp h
    · have hmore' : s.dec.writeCursor.toNat + 1 < s.dec.declaredLength.toNat := of_decide_eq_true hmore
      rw [if_neg hmore'.ne]; rfl
    · obtain ⟨hlast, ⟨⟩⟩ | ⟨-, ⟨⟩⟩ := ite_eq_iff.mp h
      have hlast' : s.dec.writeCursor.toNat + 1 = s.dec.declaredLength.toNat := of_decide_eq_true hlast
      rw [if_pos hlast']; rfl
  case awaitingChecksum =>
    rw [feed_of_awaitingChecksum hs]
    obtain ⟨hb, ⟨⟩⟩ | ⟨hb, ⟨⟩⟩ := ite_eq_iff.mp h
    exacts [congrArg s.setDec (if_pos hb).symm, congrArg s.setDec (if_neg hb).symm]
  case awaitingEnd =>
    rw [feed_of_awaitingEnd hs]
    obtain ⟨hb, ⟨⟩⟩ | ⟨hb, ⟨⟩⟩ := ite_eq_iff.mp h
    exacts [congrArg s.setDec (if_pos hb).symm, congrArg s.setDec (if_neg hb).symm]
  case done => cases h; rw [feed_of_terminal (.inl hs)]; rfl
  case failed => cases h; rw [feed_of_terminal (.inr hs)]; rfl

/-- Settles O19: INV3 gives the byte a row, and that row alone runs. -/
theorem feedStepIsOneFunction : Obligations.FeedStepIsOneFunction := by
  intro s b rest h
  obtain ⟨i, hi⟩ := exists_feedRow h b
  have hdec : decode (.d (dispatchWordD (DecPins.feed b) s.dec.state)) (selCtx s) = .ok i := by
    rw [← hi, ← decode_feedWord, ← dispatchWordD_feed]
    rfl
  exact step_decLine s (DecPins.feed b) rest hdec
    (exec_next_iff.mpr ⟨selected_of_feedRow hi, (effect_of_feedRow (s := { s with inputs := rest }) hi).symm⟩)

/-! ## Lists of fed bytes -/

/-- The decoder after the bytes of a list are fed in order. -/
def feedList (l : List Byte) (d : Decoder) : Decoder := l.foldl (fun d b => feed b d) d

@[simp] theorem feedList_nil (d : Decoder) : feedList [] d = d := rfl
@[simp] theorem feedList_cons (b : Byte) (l : List Byte) (d : Decoder) :
    feedList (b :: l) d = feedList l (feed b d) := rfl
theorem feedList_append (l k : List Byte) (d : Decoder) : feedList (l ++ k) d = feedList k (feedList l d) :=
  List.foldl_append

theorem feedList_of_terminal {d : Decoder} (h : d.state = .done ∨ d.state = .failed) (l : List Byte) :
    feedList l d = d := by
  induction l with
  | nil => rfl
  | cons b l ih => rw [feedList_cons, feed_of_terminal h, ih]

/-- What feeding keeps and rests on: INV3 selects a row for the byte, INV2 keeps INV3 when the length is latched. -/
structure FeedInv (d : Decoder) : Prop where
  inv2 : Inv2 d
  inv3 : Inv3 d

/-- The cursor does not wrap while a payload byte is awaited (R23). -/
theorem succ_writeCursor_of_inv3 {d : Decoder} (h : Inv3 d) (hs : d.state = .awaitingPayload) :
    (d.writeCursor + 1).toNat = d.writeCursor.toNat + 1 := by
  obtain ⟨-, hlt⟩ := h hs
  have := d.declaredLength.isLt
  exact succ_toNat_of_lt (by omega)

theorem FeedInv.feed {d : Decoder} (h : FeedInv d) (b : Byte) : FeedInv (feed b d) := by
  cases hs : d.state
  case awaitingStart =>
    rw [feed_of_awaitingStart hs]
    split
    · exact ⟨fun _ => h.inv2 (.inl hs), by simp [Inv3]⟩
    · exact ⟨by simp [Inv2], by simp [Inv3]⟩
  case awaitingLength =>
    obtain ⟨hcursor, -, -⟩ := h.inv2 (.inr hs)
    rw [feed_of_awaitingLength hs]
    split
    · next hb => exact ⟨by simp [Inv2], fun _ => ⟨hb, by simpa [hcursor] using hb⟩⟩
    · exact ⟨by simp [Inv2], by simp [Inv3]⟩
  case awaitingPayload =>
    obtain ⟨hpos, hlt⟩ := h.inv3 hs
    have hcursor := succ_writeCursor_of_inv3 h.inv3 hs
    rw [feed_of_awaitingPayload hs]
    split
    · exact ⟨by simp [Inv2], by simp [Inv3]⟩
    · next hlast => exact ⟨by simp [Inv2], fun _ => ⟨hpos, hcursor.trans_lt (by simp; omega)⟩⟩
  case awaitingChecksum =>
    rw [feed_of_awaitingChecksum hs]
    split <;> exact ⟨by simp [Inv2], by simp [Inv3]⟩
  case awaitingEnd =>
    rw [feed_of_awaitingEnd hs]
    split <;> exact ⟨by simp [Inv2], by simp [Inv3]⟩
  case done => rwa [feed_of_terminal (.inl hs)]
  case failed => rwa [feed_of_terminal (.inr hs)]

end Sys2Proof.Machine
end

section
/-! The codec (41_decoder.md R118, R119): the program DECODE of 30_encoding.md R84 as a function of the fed bytes, what a frame
and its damaged forms lead to, and how long an attempt can last. -/

namespace Sys2Proof.Safety

open Sys2Proof.Machine

/-! ## The program DECODE -/

/-- The decoder right after RESET: its cells are those it had (R100). -/
def fresh (d : Decoder) : Decoder := Decoder.initial.setBuffer d.buffer

theorem feedInv_fresh (d : Decoder) : FeedInv (fresh d) := ⟨fun _ => ⟨rfl, rfl, rfl⟩, by simp [Inv3, fresh]⟩

theorem step_lineReset (s : State) (rest : List Input) :
    step { s with inputs := lineReset :: rest } = .next { s with dec := fresh s.dec, inputs := rest } :=
  step_decLine s DecPins.reset rest (decode_resetWord false s.dec.state.code 0x00#8 (selCtx s))
    ((exec_reset_eq_next _ _ _).mpr rfl)

theorem runSteps_feedAll {s : State} (h : FeedInv s.dec) (l : List Byte) (rest : List Input) :
    runSteps l.length { s with inputs := feedAll l ++ rest } =
      .next { s with dec := feedList l s.dec, inputs := rest } := by
  induction l generalizing s with
  | nil => rfl
  | cons b l ih =>
    rw [List.length_cons]
    exact (runSteps_succ _ (feedStepIsOneFunction s b _ h.inv3)).trans
      (ih (s := { s with dec := feed b s.dec }) (h.feed b))

theorem runSteps_attempt (l : List Byte) (s : State) (rest : List Input) :
    runSteps (l.length + 1) { s with inputs := lineReset :: (feedAll l ++ rest) } =
      .next { s with dec := feedList l (fresh s.dec), inputs := rest } :=
  (runSteps_succ _ (step_lineReset s _)).trans
    (runSteps_feedAll (s := { s with dec := fresh s.dec }) (feedInv_fresh s.dec) l rest)

/-- What RESULT answers of a decoder (R116, log 7). -/
def resultOf (d : Decoder) : ReadOut := .result (verdict d) (payloadLen d) (deliveredPayload d)

theorem step_lineResult (s : State) (rest : List Input) :
    step { s with inputs := lineResult :: rest } = .next (answer (resultOf s.dec) { s with inputs := rest }) :=
  (step_word s .result rest rfl).trans (exec_result_eq_next.mpr rfl)

/-- DECODE of any list, from any state: RESULT answers for the fresh decoder fed the list. -/
theorem runSteps_decodeProgram {l : List Byte} {n : Nat} (hn : l.length = n) (s : State) (rest : List Input) :
    runSteps (n + 2) { s with inputs := decodeProgram l ++ rest } =
      .next (answer (resultOf (feedList l (fresh s.dec)))
        { s with dec := feedList l (fresh s.dec), inputs := rest }) := by
  have hprogram : decodeProgram l ++ rest = lineReset :: (feedAll l ++ lineResult :: rest) := by simp [decodeProgram]
  have hattempt := runSteps_attempt l s (lineResult :: rest)
  subst hn
  rw [hprogram]
  exact (runSteps_add (n := 1) hattempt).trans
    (runSteps_succ 0 (step_lineResult { s with dec := feedList l (fresh s.dec) } rest))

/-! ## How long an attempt can last -/

/-- The most bytes a decoder can take before its attempt is over (R118). -/
def bytesLeft (d : Decoder) : Nat :=
  match d.state with
  | .awaitingStart => 259
  | .awaitingLength => 258
  | .awaitingPayload => d.declaredLength.toNat - d.writeCursor.toNat + 2
  | .awaitingChecksum => 2
  | .awaitingEnd => 1
  | .done | .failed => 0

theorem bytesLeft_feed {d : Decoder} (h : FeedInv d) (b : Byte) : bytesLeft (feed b d) ≤ bytesLeft d - 1 := by
  cases hs : d.state
  case awaitingStart => rw [feed_of_awaitingStart hs]; split <;> simp [bytesLeft, hs]
  case awaitingLength =>
    have := b.isLt
    rw [feed_of_awaitingLength hs]
    split <;> simp [bytesLeft, hs]
    omega
  case awaitingPayload =>
    obtain ⟨-, hlt⟩ := h.inv3 hs
    have hcursor := succ_writeCursor_of_inv3 h.inv3 hs
    have hleft : bytesLeft d = d.declaredLength.toNat - d.writeCursor.toNat + 2 := by simp [bytesLeft, hs]
    rw [feed_of_awaitingPayload hs, hleft]
    split
    · show 2 ≤ _
      omega
    · show d.declaredLength.toNat - (d.writeCursor + 1).toNat + 2 ≤ _
      omega
  case awaitingChecksum => rw [feed_of_awaitingChecksum hs]; split <;> simp [bytesLeft, hs]
  case awaitingEnd => rw [feed_of_awaitingEnd hs]; split <;> simp [bytesLeft, hs]
  case done => rw [feed_of_terminal (.inl hs)]; simp [bytesLeft, hs]
  case failed => rw [feed_of_terminal (.inr hs)]; simp [bytesLeft, hs]

theorem bytesLeft_feedList {d : Decoder} (h : FeedInv d) (l : List Byte) :
    bytesLeft (feedList l d) ≤ bytesLeft d - l.length := by
  induction l generalizing d with
  | nil => exact Nat.le_refl _
  | cons b l ih =>
    have hfeed := bytesLeft_feed h b
    have hrest := ih (h.feed b)
    simp only [feedList_cons, List.length_cons]
    omega

theorem verdict_ne_pending_of_bytesLeft {d : Decoder} (h : bytesLeft d = 0) : verdict d ≠ .pending := by
  cases hs : d.state <;> simp [bytesLeft, hs] at h
  case done => simp [verdict_of_done hs]
  case failed => rw [verdict_of_failed hs]; split <;> simp

/-- Settles O59: every byte fed leaves fewer to come. -/
theorem attemptsEndWithin259Bytes : Obligations.AttemptsEndWithin259Bytes := by
  intro l s rest hl
  have hleft : bytesLeft (feedList l (fresh s.dec)) ≤ 259 - l.length := bytesLeft_feedList (feedInv_fresh s.dec) l
  have hzero : bytesLeft (feedList l (fresh s.dec)) = 0 := by omega
  exact ⟨_, runSteps_attempt l s rest, verdict_ne_pending_of_bytesLeft hzero, rfl⟩

/-! ## The payload field -/

/-- The decoder has latched the length `n` and taken the payload bytes `q`. -/
structure HasTaken (n : Byte) (q : List Byte) (d : Decoder) : Prop where
  state : d.state = if q.length < n.toNat then .awaitingPayload else .awaitingChecksum
  declaredLength : d.declaredLength = n
  cursor : d.writeCursor.toNat = q.length
  sum : d.checksumAcc = cksum8Of q
  contents : logicalContents d = q

theorem hasTaken_header (n : Byte) (d : Decoder) : HasTaken n [] (feedList [Config.START, n] (fresh d)) := by
  have hstart : feed Config.START (fresh d) = (fresh d).setState .awaitingLength := feed_of_awaitingStart rfl
  rw [feedList_cons, hstart, feedList_cons, feed_of_awaitingLength rfl]
  exact ⟨rfl, rfl, rfl, rfl, rfl⟩

/-- The contents a fed payload byte leaves are those its row leaves (R106, R107). -/
theorem logicalContents_feed {d : Decoder} (hs : d.state = .awaitingPayload) (h : d.writeCursor.toNat < 255)
    (b : Byte) : logicalContents (feed b d) = logicalContents d ++ [b] := by
  rw [feed_of_awaitingPayload hs]
  exact logicalContents_appended (s := State.reset.setDec d) h

theorem HasTaken.feed {n : Byte} {q : List Byte} {d : Decoder} (h : HasTaken n q d) (hq : q.length < n.toNat)
    (b : Byte) : HasTaken n (q ++ [b]) (feed b d) := by
  have hs : d.state = .awaitingPayload := h.state.trans (if_pos hq)
  have hlt : d.writeCursor.toNat < 255 := by
    have := n.isLt
    rw [h.cursor]
    omega
  have hcontents := logicalContents_feed hs hlt b
  rw [h.contents] at hcontents
  refine ⟨?_, ?_, ?_, ?_, hcontents⟩ <;> rw [feed_of_awaitingPayload hs]
  · simp only [Decoder.setState_state, h.cursor, h.declaredLength, List.length_append, List.length_singleton]
    by_cases hlast : q.length + 1 = n.toNat
    · rw [if_pos hlast, if_neg (by omega)]
    · rw [if_neg hlast, if_pos (by omega)]
  · exact h.declaredLength
  · simpa [h.cursor] using succ_toNat_of_lt hlt
  · simp [h.sum, cksum8Of, sum8_append]

theorem HasTaken.feedList {n : Byte} {q l : List Byte} {d : Decoder} (h : HasTaken n q d)
    (hl : q.length + l.length ≤ n.toNat) : HasTaken n (q ++ l) (feedList l d) := by
  induction l generalizing q d with
  | nil => simpa using h
  | cons b l ih =>
    rw [List.length_cons] at hl
    have := ih (h.feed (by omega) b) (by simp; omega)
    rwa [List.append_assoc] at this

/-! ## The checksum byte -/

section
variable {n : Byte} {q : List Byte} {d : Decoder} (h : HasTaken n q d) (hq : q.length = n.toNat)
include h hq

theorem HasTaken.awaitingChecksum : d.state = .awaitingChecksum := h.state.trans (if_neg (by omega))

theorem HasTaken.feed_checksum : Machine.feed (cksum8Of q) d = d.setState .awaitingEnd := by
  rw [feed_of_awaitingChecksum (h.awaitingChecksum hq), if_pos h.sum.symm]

theorem HasTaken.feed_wrongChecksum {c : Byte} (hc : c ≠ cksum8Of q) :
    Machine.feed c d = (d.setState .failed).setFailCause true := by
  rw [feed_of_awaitingChecksum (h.awaitingChecksum hq), if_neg (by rwa [h.sum])]

/-- The taken bytes are what the read port shows up to the declared length. -/
theorem HasTaken.map_bufRead : (List.range n.toNat).map (bufRead d) = q := by
  rw [← hq, ← h.cursor]
  exact h.contents

end

/-! ## Frames -/

/-- `[0x02, n] ++ q`: a frame up to its CHECKSUM byte. -/
abbrev header (n : Byte) (q : List Byte) : List Byte := [Config.START, n] ++ q

theorem hasTaken_payload {n : Byte} {q : List Byte} (hq : q.length = n.toNat) (d : Decoder) :
    HasTaken n q (feedList (header n q) (fresh d)) := by
  rw [feedList_append]
  exact (hasTaken_header n d).feedList (by simp [hq])

theorem feedList_header_checksum {n : Byte} {q : List Byte} (hq : q.length = n.toNat) (d : Decoder) :
    feedList (header n q ++ [cksum8Of q]) (fresh d) = (feedList (header n q) (fresh d)).setState .awaitingEnd := by
  rw [feedList_append]
  exact (hasTaken_payload hq d).feed_checksum hq

theorem encodeFrame_eq_bytes {p f : List Byte} (h : encodeFrame p = .bytes f) :
    p.length = (BitVec.ofNat 8 p.length).toNat ∧
      f = header (BitVec.ofNat 8 p.length) p ++ [cksum8Of p] ++ [Config.END] := by
  obtain ⟨-, ⟨⟩⟩ | ⟨hp, hf⟩ := ite_eq_iff.mp h
  refine ⟨?_, ?_⟩
  · simp only [Config.MAX_PAYLOAD] at hp
    rw [BitVec.toNat_ofNat]
    omega
  · cases hf
    simp [frameBytes]

/-! ## What RESULT answers -/

theorem deliveredPayload_of_verdict {d : Decoder} (h : verdict d ≠ .complete) : deliveredPayload d = [] := by
  cases hv : verdict d <;> simp [deliveredPayload, hv] at h ⊢

theorem resultOf_of_pending {d : Decoder} (hdone : d.state ≠ .done) (hfailed : d.state ≠ .failed) :
    resultOf d = .result .pending (payloadLen d) [] := by
  have hv := verdict_eq_pending hdone hfailed
  rw [resultOf, deliveredPayload_of_verdict (by simp [hv]), hv]

theorem resultOf_raised (d : Decoder) (cause : Bool) : resultOf ((d.setState .failed).setFailCause cause) =
    .result (if cause then .checksumMismatch else .malformed) d.declaredLength [] := by
  cases cause <;> rfl

/-! ## DECODE of a frame, whole, damaged or cut short (R119) -/

/-- Settles O53: the payload is taken, the checksum matches the sum of what was taken, END closes the frame. -/
theorem decodingAnEncodedPayloadCompletes : Obligations.DecodingAnEncodedPayloadCompletes := by
  intro p f s rest h
  obtain ⟨hp, rfl⟩ := encodeFrame_eq_bytes h
  have htaken := hasTaken_payload hp s.dec
  refine ⟨_, runSteps_decodeProgram rfl s rest, ?_⟩
  rw [feedList_append, feedList_header_checksum hp]
  generalize feedList (header (BitVec.ofNat 8 p.length) p) (fresh s.dec) = d at htaken
  have hdone : feedList [Config.END] (d.setState .awaitingEnd) = d.setState .done :=
    (feed_of_awaitingEnd (d := d.setState .awaitingEnd) rfl).trans (if_pos rfl)
  have hresult : resultOf (d.setState .done) = .result .complete (BitVec.ofNat 8 p.length) p := by
    rw [resultOf, deliveredPayload_of_done rfl, payloadLen, Decoder.setState_declaredLength, htaken.declaredLength]
    exact congrArg _ (htaken.map_bufRead hp)
  rw [hdone, hresult]
  exact ⟨rfl, rfl, rfl⟩

/-- Settles O54: the changed payload is taken as it comes, and its sum is not the CHECKSUM byte. -/
theorem changedPayloadByteIsDetected : Obligations.ChangedPayloadByteIsDetected := by
  intro p f k b s rest h hk hne
  obtain ⟨hp, hf⟩ := encodeFrame_eq_bytes h
  have hset : f.set (k + 2) b = header (BitVec.ofNat 8 p.length) (p.set k b) ++ [cksum8Of p, Config.END] := by
    rw [hf]
    simp [hk]
  have htaken := hasTaken_payload (q := p.set k b) (by rwa [List.length_set]) s.dec
  have hcksum : cksum8Of p ≠ cksum8Of (p.set k b) := by
    rw [List.getElem?_eq_getElem hk] at hne
    exact (cksum8Of_set_ne hk fun he => hne (congrArg some he)).symm
  refine ⟨_, runSteps_decodeProgram (l := f.set (k + 2) b) (by simp) s rest, ?_⟩
  rw [hset, feedList_append, feedList_cons, htaken.feed_wrongChecksum (by rwa [List.length_set]) hcksum,
    feedList_of_terminal (.inr rfl), answer_reads, resultOf_raised, htaken.declaredLength]
  rfl

theorem feedList_wrongStart {b : Byte} (hb : b ≠ Config.START) (l : List Byte) (d : Decoder) :
    feedList (b :: l) (fresh d) = ((fresh d).setState .failed).setFailCause false := by
  rw [feedList_cons, feed_of_awaitingStart rfl, if_neg hb, feedList_of_terminal (.inr rfl)]

/-- Settles O55: a wrong START fails at once; a wrong END fails after a checksum that matches. -/
theorem changedMarkerIsDetected : Obligations.ChangedMarkerIsDetected := by
  intro p f b s rest h
  obtain ⟨hp, hf⟩ := encodeFrame_eq_bytes h
  refine ⟨fun hb => ⟨_, runSteps_decodeProgram (l := f.set 0 b) (by simp) s rest, ?_⟩,
    fun hb => ⟨_, runSteps_decodeProgram (l := f.set (p.length + 3) b) (by simp) s rest, ?_⟩⟩
  · have hfail : feedList (f.set 0 b) (fresh s.dec) = ((fresh s.dec).setState .failed).setFailCause false := by
      rw [hf]
      exact feedList_wrongStart hb _ s.dec
    rw [hfail, answer_reads, resultOf_raised]
    rfl
  · have hset : f.set (p.length + 3) b = header (BitVec.ofNat 8 p.length) p ++ [cksum8Of p] ++ [b] := by
      rw [hf]
      simp
    rw [hset, feedList_append, feedList_header_checksum hp, feedList_cons, feedList_nil, feed_of_awaitingEnd rfl,
      if_neg hb, answer_reads, resultOf_raised, Decoder.setState_declaredLength,
      (hasTaken_payload hp s.dec).declaredLength]
    rfl

/-- Settles O56: everything before END ends in AwaitingEnd, so no beginning of it is in a terminal state, which the rest
would keep. -/
theorem properBeginningStaysPending : Obligations.ProperBeginningStaysPending := by
  intro p f k s rest h hk
  have hlen : (f.take k).length = k := List.length_take_of_le hk.le
  obtain ⟨hp, rfl⟩ := encodeFrame_eq_bytes h
  have hend := congrArg Decoder.state (feedList_header_checksum hp s.dec)
  generalize header (BitVec.ofNat 8 p.length) p ++ [cksum8Of p] = body at hk hlen hend
  rw [List.length_append, List.length_singleton] at hk
  rw [List.take_append_of_le_length (by omega)] at hlen ⊢
  have hrest : feedList body (fresh s.dec) = feedList (body.drop k) (feedList (body.take k) (fresh s.dec)) := by
    rw [← feedList_append, List.take_append_drop]
  obtain ⟨hdone, hfailed⟩ : (feedList (body.take k) (fresh s.dec)).state ≠ .done ∧
      (feedList (body.take k) (fresh s.dec)).state ≠ .failed := by
    refine not_or.mp fun hterm => ?_
    rw [hrest, feedList_of_terminal hterm] at hend
    simp [hend] at hterm
  refine ⟨_, payloadLen (feedList (body.take k) (fresh s.dec)), runSteps_decodeProgram hlen s rest, ?_⟩
  rw [resultOf_of_pending hdone hfailed]
  rfl

end Sys2Proof.Safety
end

section
/-! The rows of the encoder one by one (42_encoder.md R132 to R144): the word that selects each, and the state it leaves; and the
function ENCODE byte by byte (R131). -/

namespace Sys2Proof.Machine

/-! ## ENC.RESET, the starts and the waits -/

/-- Settles O21. -/
theorem encResetClearsTheEncoder : Obligations.EncResetClearsTheEncoder := fun st t y code c s =>
  ⟨decodeEncodeRoundTrip (.encReset st t y code) c rfl rfl, resetEncoder s,
    (exec_encReset_eq_next st t y code).mpr rfl, rfl, rfl, rfl⟩

/-- Settles O22. -/
theorem encStartLatchesTheLength : Obligations.EncStartLatchesTheLength := fun y n c s =>
  ⟨decodeEncodeRoundTrip (.encStartOk y n) c rfl rfl, fun hp =>
    ⟨_, exec_of_selected (by simp [selected, hp]), rfl, rfl⟩⟩

/-- Settles O23: the refusal leaves EncIdle, where the rows named next are selected. -/
theorem encStartRefusesLongPayloads : Obligations.EncStartRefusesLongPayloads := by
  intro y n c s hn
  have htl : tooLargeBit n = true := decide_eq_true hn
  refine ⟨decodeEncodeRoundTrip (.encStartTooLarge y n) c htl rfl, fun hp => ?_⟩
  have hidle : (effect (.encStartTooLarge y n) s).enc.phase = .encIdle := hp
  refine ⟨_, exec_of_selected (by simp [selected, hp, htl]), rfl, rfl, by simp [outValid, hidle],
    fun t r => exec_of_selected (by simp [selected, hidle]),
    fun r m => ⟨_, exec_of_selected (by simp [selected, hidle]), rfl, rfl⟩,
    fun st t r code => ⟨_, (exec_encReset_eq_next st t r code).mpr rfl, rfl⟩⟩

/-- Settles O24. -/
theorem encWaitsWithoutChange : Obligations.EncWaitsWithoutChange :=
  ⟨fun t y c s => ⟨decodeEncodeRoundTrip (.encIdle t y) c rfl rfl, fun hp =>
      exec_of_selected (by simp [selected, hp])⟩,
    fun st t p c s hne => ⟨decodeEncodeRoundTrip (.encStall st t p) c (bne_iff_ne.mpr hne) rfl, fun hp =>
      exec_of_selected (by simp [selected, hp, hne])⟩⟩

/-! ## The emitting rows -/

theorem outLast_of_ne_encEnd {s : State} (h : s.enc.phase ≠ .encEnd) : outLast s = false := by simp [outLast, h]

theorem outLast_of_encEnd {s : State} (h : s.enc.phase = .encEnd) : outLast s = true := by simp [outLast, h]

/-- Settles O25: `out_last` goes with the byte, and is 0 before EncEnd. -/
theorem encEmitsStartAndLength : Obligations.EncEmitsStartAndLength := by
  refine fun st t s => ⟨⟨decodeEncodeRoundTrip (.encEmitStart st t) _ rfl rfl, fun hp => ?_⟩,
    fun hlen => ⟨decodeEncodeRoundTrip (.encEmitLengthNz st t) _ rfl (bne_iff_ne.mpr hlen), fun hp => ?_⟩,
    fun hlen => ⟨decodeEncodeRoundTrip (.encEmitLengthZ st t) _ rfl (beq_iff_eq.mpr hlen), fun hp => ?_⟩⟩
  all_goals
    have hlast : outLast s = false := outLast_of_ne_encEnd (by simp [hp])
    rw [← hlast]
  · exact ⟨_, exec_of_selected (by simp [selected, hp]), rfl, rfl⟩
  · exact ⟨_, exec_of_selected (by simp [selected, hp, hlen]), rfl, rfl⟩
  · exact ⟨_, exec_of_selected (by simp [selected, hp, hlen]), rfl, rfl⟩

/-- Settles O26: the sum is the byte sum of R93, and the cursor stays below the latched length until it meets it. -/
theorem encEmitsPayloadBytes : Obligations.EncEmitsPayloadBytes := by
  refine fun st t s => ⟨fun hmore =>
      ⟨decodeEncodeRoundTrip (.encEmitPayloadMore st t) _ rfl (decide_eq_true hmore), fun hp => ?_⟩,
    fun hlast => ⟨decodeEncodeRoundTrip (.encEmitPayloadLast st t) _ rfl (decide_eq_true hlast), fun hp => ?_⟩⟩
  all_goals
    have hsucc : (s.enc.cursor + 1).toNat = s.enc.cursor.toNat + 1 := succ_toNat_of_lt (by omega)
    have hnot : outLast s = false := outLast_of_ne_encEnd (by simp [hp])
    rw [← hnot, ofNat_add_mod_byte]
  · refine ⟨emitPayload .encPayload s, exec_of_selected (by simp [selected, hp, hmore]), ?_, hsucc, rfl⟩
    rw [emitPayload_eq, ← hp]
    rfl
  · have hcursor : s.enc.lenR = s.enc.cursor + 1 := BitVec.eq_of_toNat_eq (hlast.symm.trans hsucc.symm)
    refine ⟨emitPayload .encChecksum s, exec_of_selected (by simp [selected, hp, hlast]), ?_, hsucc, rfl⟩
    rw [emitPayload_eq, hcursor]
    rfl

/-- Settles O27. -/
theorem encEmitsChecksumAndEnd : Obligations.EncEmitsChecksumAndEnd := by
  refine fun st t c s => ⟨⟨decodeEncodeRoundTrip (.encEmitChecksum st t) c rfl rfl, fun hp => ?_⟩,
    decodeEncodeRoundTrip (.encEmitEnd st t) c rfl rfl, fun hp => ?_⟩
  · rw [← outLast_of_ne_encEnd (s := s) (by simp [hp])]
    exact ⟨_, exec_of_selected (by simp [selected, hp]), rfl, rfl, rfl⟩
  · rw [← outLast_of_encEnd hp]
    exact ⟨_, exec_of_selected (by simp [selected, hp]), rfl, rfl, rfl⟩

/-! ## The function ENCODE -/

theorem encodeFrame_of_length_le {p : List Byte} (h : p.length ≤ 255) : encodeFrame p = .bytes (frameBytes p) :=
  if_neg (Nat.not_lt.mpr h)

theorem eq_frameBytes_of_encodeFrame {p f : List Byte} (h : encodeFrame p = .bytes f) : f = frameBytes p := by
  obtain ⟨-, ⟨⟩⟩ | ⟨-, ⟨⟩⟩ := ite_eq_iff.mp h
  rfl

/-- The payload stands in its frame between two bytes before it and two after it (R70). -/
theorem frameBytes_injective : Function.Injective frameBytes := by
  intro p q h
  have htail : p ++ [cksum8Of p, Config.END] = q ++ [cksum8Of q, Config.END] := by
    simpa [frameBytes] using congrArg (List.drop 2) h
  exact (List.append_inj' htail rfl).1

/-- Settles O31. -/
theorem encodeIsInjectiveByPosition : Obligations.EncodeIsInjectiveByPosition := by
  refine ⟨fun p f h => ?_, fun p q hp hq h => ?_⟩
  · obtain rfl := eq_frameBytes_of_encodeFrame h
    refine ⟨by simp [frameBytes], rfl, rfl, fun k hk hkp => ?_, frameBytes_getElem?_cksum p, by simp [frameBytes]⟩
    obtain ⟨j, rfl⟩ := Nat.exists_eq_add_of_le' hk
    have hj : j < p.length := by omega
    exact (List.getElem?_append_left hj : (p ++ [cksum8Of p, Config.END])[j]? = p[j]?)
  · rw [encodeFrame_of_length_le hp, encodeFrame_of_length_le hq, EncodeResult.bytes.injEq] at h
    exact frameBytes_injective h

end Sys2Proof.Machine
end

section
/-! What the encoder offers and transfers (42_encoder.md R137): the outputs by phase, the transfer of a row, and of a step. -/

namespace Sys2Proof.Machine

/-! ## The outputs -/

theorem outValid_eq_isSome_outByte (s : State) : outValid s = (outByte s).isSome := by
  cases hp : s.enc.phase <;> simp [outValid, outByte, hp]

/-- The outputs read the encoder and the payload source only. -/
theorem outByte_congr {s t : State} (henc : t.enc = s.enc) (hsrc : t.payloadSrc = s.payloadSrc) :
    outByte t = outByte s := by
  simp only [outByte, plData, henc, hsrc]

theorem outValid_congr {s t : State} (henc : t.enc = s.enc) : outValid t = outValid s := by
  rw [outValid, henc, outValid]

/-- The transfer on offer: `out_byte` with `out_last`, none while idle. -/
def offered (s : State) : List Transfer := (outByte s).toList.map fun b => ⟨b, outLast s⟩

theorem offered_of_outValid {s : State} (h : outValid s = true) :
    ∃ b, outByte s = some b ∧ offered s = [⟨b, outLast s⟩] := by
  rw [outValid_eq_isSome_outByte] at h
  obtain ⟨b, hb⟩ := Option.isSome_iff_exists.mp h
  exact ⟨b, hb, by rw [offered, hb]; rfl⟩

theorem offered_of_not_outValid {s : State} (h : outValid s = false) : offered s = [] := by
  rw [outValid_eq_isSome_outByte, Option.isSome_eq_false_iff, Option.isNone_iff_eq_none] at h
  rw [offered, h]
  rfl

/-! ## What a row transfers -/

/-- Without `out_ready` a busy encoder's row changes nothing (R136). -/
theorem effect_of_phaseRow_not_ready {s : State} (hp : s.enc.phase ≠ .encIdle) {st t : Bool} {n : EncLen} {j : Instr}
    (h : phaseRow s.enc.phase st t false n (selCtx s) = .ok j) : effect j s = s := by
  cases (phaseRow_not_ready st t hp n _).symm.trans h
  rfl

/-- The row of a phase transfers what is on offer exactly when `out_ready` is 1. -/
theorem wire_effect_of_phaseRow {s : State} {st t y : Bool} {n : EncLen} {j : Instr}
    (h : phaseRow s.enc.phase st t y n (selCtx s) = .ok j) :
    (effect j s).wire = s.wire ++ if y then offered s else [] := by
  cases hp : s.enc.phase
  case encIdle =>
    rw [hp] at h
    rw [offered_of_not_outValid (by simp [outValid, hp]), ite_self, List.append_nil]
    cases st
    case false => cases h; rfl
    case true => cases t <;> cases h <;> rfl
  all_goals
    cases y
    case false => rw [effect_of_phaseRow_not_ready (by simp [hp]) h]; simp
  all_goals rw [hp] at h
  case encLength.true =>
    obtain ⟨hlen, ⟨⟩⟩ | ⟨-, ⟨⟩⟩ := ite_eq_iff.mp h
    · simp [effect, offered, outByte, hp, show s.enc.lenR = 0x00#8 from hlen]
    · simp [effect, offered, outByte, hp]
  case encPayload.true =>
    obtain ⟨-, ⟨⟩⟩ | ⟨-, h⟩ := ite_eq_iff.mp h
    · simp [effect, offered, outByte, hp]
    · obtain ⟨-, ⟨⟩⟩ | ⟨-, ⟨⟩⟩ := ite_eq_iff.mp h
      simp [effect, offered, outByte, hp]
  case encStart.true | encChecksum.true | encEnd.true => cases h; simp [effect, offered, outByte, hp]

/-! ## What an edge does to each block -/

theorem inputs_effect (i : Instr) (s : State) : (effect i s).inputs = s.inputs := by cases i <;> rfl

theorem payloadSrc_effect (i : Instr) (s : State) : (effect i s).payloadSrc = s.payloadSrc := by cases i <;> rfl

theorem SameBlock.trans {f : Format} {s t u : State} (h : SameBlock f s t) (h' : SameBlock f t u) : SameBlock f s u := by
  cases f
  case d | k => exact Eq.trans h' h
  case e =>
    obtain ⟨henc, hsrc, hwire⟩ := h
    obtain ⟨henc', hsrc', hwire'⟩ := h'
    exact ⟨henc'.trans henc, hsrc'.trans hsrc, hwire'.trans hwire⟩
  case r | function => exact h

/-- A row does the same to its block in two states that agree there. -/
theorem sameBlock_effect_effect {f : Format} {i : Instr} (hf : i.format = f) {s t : State} (h : SameBlock f s t) :
    SameBlock f (effect i s) (effect i t) := by
  have hlocal := (row_local (hf.symm ▸ h)).2
  rw [hf] at hlocal
  cases f
  case d | k => rw [hlocal]; exact rfl
  case e =>
    obtain ⟨-, hsrc, -⟩ := h
    exact ⟨by rw [hlocal]; rfl, by rw [payloadSrc_effect, payloadSrc_effect, hsrc], by rw [hlocal]; rfl⟩
  case r | function => exact h

/-- Everything an edge that completes does to the two blocks: each is as its own row leaves it (R9). -/
theorem step_edge_blocks {s t : State} {w : Wiring} {d : DecPins} {e : EncPins} {k : CkPins} {rest : List Input}
    (h : step { s with inputs := .edge w d e k :: rest } = .next t) :
    ∃ i j, decode (.d (dispatchWordD (wiredPins w d e s) s.dec.state)) (selCtx s) = .ok i ∧
      decode (.e (dispatchWordE e s.enc.phase) e.len) (selCtx s) = .ok j ∧
      t.dec = (effect i s).dec ∧ SameBlock .e (effect j s) t ∧ t.inputs = rest := by
  obtain ⟨i, j, l, u, v, hi, hj, hl, hu, hv, ht⟩ := step_edge_eq_next h
  have hfi := format_of_decodeD hi
  have hfj := format_of_decodeE hj
  have hfl := format_of_decodeK hl
  have hdec : t.dec = u.dec := (exec_keeps_dec (.inr hfl) ht).trans (exec_keeps_dec (.inl hfj) hv)
  obtain ⟨-, rfl⟩ := exec_next_iff.mp hu
  obtain ⟨-, rfl⟩ := exec_next_iff.mp hv
  obtain ⟨-, rfl⟩ := exec_next_iff.mp ht
  have hsu : SameBlock .e s (effect i { s with inputs := rest }) :=
    sameBlock_effect (.inr (.inl rfl)) (.inl hfi) (by simp [hfi]) { s with inputs := rest }
  refine ⟨i, j, hi, hj, ?_, (sameBlock_effect_effect hfj hsu).trans ?_, by simp only [inputs_effect]⟩
  · exact hdec.trans (sameBlock_effect_effect (s := s) (t := { s with inputs := rest }) hfi rfl)
  · exact sameBlock_effect (.inr (.inl rfl)) (.inr (.inr hfl)) (by simp [hfl]) _

/-- The transfer of an edge (R132, R137), and the offer that stays where none is made. -/
theorem step_edge_transfers {s t : State} {w : Wiring} {d : DecPins} {e : EncPins} {k : CkPins} {rest : List Input}
    (h : step { s with inputs := .edge w d e k :: rest } = .next t) :
    t.wire = s.wire ++ (if transfers e s then offered s else []) ∧
    (e.rst = false → outValid s = true → e.outReady = false → outByte t = outByte s ∧ outValid t = true) := by
  obtain ⟨-, j, -, hj, -, ⟨henc, hsrc, hwire⟩, -⟩ := step_edge_blocks h
  obtain ⟨r, st, n, y⟩ := e
  cases r
  case true =>
    rw [dispatchWordE_reset, decode_encResetWord rfl] at hj
    cases hj
    exact ⟨hwire.trans (List.append_nil _).symm, nofun⟩
  case false =>
    rw [dispatchWordE_phase, decode_phaseWord rfl] at hj
    refine ⟨?_, fun _ hv hy => ?_⟩
    · rw [hwire, wire_effect_of_phaseRow hj]
      cases hv : outValid s
      case false => simp [transfers, hv, offered_of_not_outValid]
      case true => simp [transfers, hv]
    · obtain rfl : y = false := hy
      rw [effect_of_phaseRow_not_ready (by simpa [outValid] using hv) hj] at henc hsrc
      exact ⟨outByte_congr henc hsrc, (outValid_congr henc).trans hv⟩

/-- An ENC.RESET edge in LOOPBACK completes in every state and feeds nothing (R132, D30, log 14). -/
theorem step_loopback_encReset (s : State) {d : DecPins} {e : EncPins} (rest : List Input) (he : e.rst = true)
    (hd : d.rst = false) :
    step { s with inputs := .edge .loopback d e CkPins.quiet :: rest } =
      .next (resetEncoder { s with inputs := rest }) := by
  have hi := decode_dispatchWordD (wiredPins .loopback d e s) s.dec.state (selCtx s)
  have hj := decode_dispatchWordE e s.enc.phase (selCtx s)
  rw [wiredPins_rst, hd, wiredPins_loopback_reset d e s he] at hi
  rw [he] at hj
  exact step_edge s .loopback d e CkPins.quiet rest
    (edgeOps_eq_ok.mpr ⟨_, _, _, hi, hj, decode_dispatchWordK _ _, rfl⟩)

/-- Settles O28. -/
theorem outputsAndTransfersFollowThePhase : Obligations.OutputsAndTransfersFollowThePhase := by
  refine ⟨fun s => ?_, fun s t w d e k rest h => ?_, fun s d e rest he hd =>
    ⟨_, step_loopback_encReset s rest he hd, rfl, rfl, rfl, rfl, rfl⟩⟩
  · refine ⟨rfl, rfl, rfl, rfl, ?_, ?_, ?_, ?_, ?_, ?_⟩ <;> exact fun hp => by simp [outByte, plData, hp]
  · obtain ⟨hwire, hstays⟩ := step_edge_transfers h
    refine ⟨fun he => by simpa [transfers, he] using hwire, fun he ⟨hv, hy⟩ => ?_, fun he hno => ⟨?_, fun hv => ?_⟩⟩
    · obtain ⟨b, hb, hoffer⟩ := offered_of_outValid hv
      exact ⟨b, hb, by simpa [transfers, he, hv, hy, hoffer] using hwire⟩
    · have htr : transfers e s = false := by simpa [transfers, he] using hno
      simpa [htr] using hwire
    · exact hstays he hv (Bool.eq_false_iff.mpr fun hy => hno ⟨hv, hy⟩)

end Sys2Proof.Machine
end

section
/-! The serializer as a whole (42_encoder.md R146): the transfers still to come, how every step moves them onto the wire, and so
the programs ENCODE and LOOPBACK of 30_encoding.md R84. -/

namespace Sys2Proof.Safety

open Sys2Proof.Machine

/-! ## The transfers still to come -/

/-- The payload bytes the encoder has not taken yet. -/
def payloadLeft (s : State) : List Byte :=
  (List.range' s.enc.cursor.toNat (s.enc.lenR.toNat - s.enc.cursor.toNat)).map (payloadByte s.payloadSrc)

/-- The payload bytes left, then CHECKSUM and END. -/
def fieldsLeft (s : State) : List Transfer :=
  (payloadLeft s).map (⟨·, false⟩) ++ [⟨s.enc.acc + sum8 (payloadLeft s), false⟩, ⟨Config.END, true⟩]

/-- The transfers to come in this ENCODE, by the field that is next (R34). -/
def unsent (s : State) : List Transfer :=
  match s.enc.phase with
  | .encIdle => []
  | .encStart => ⟨Config.START, false⟩ :: ⟨s.enc.lenR, false⟩ :: fieldsLeft s
  | .encLength => ⟨s.enc.lenR, false⟩ :: fieldsLeft s
  | .encPayload => fieldsLeft s
  | .encChecksum => [⟨s.enc.acc, false⟩, ⟨Config.END, true⟩]
  | .encEnd => [⟨Config.END, true⟩]

theorem unsent_congr {s t : State} (h : SameBlock .e s t) : unsent t = unsent s := by
  obtain ⟨henc, hsrc, -⟩ := h
  simp only [unsent, fieldsLeft, payloadLeft, henc, hsrc]

theorem phase_eq_encIdle_of_unsent {s : State} (h : unsent s = []) : s.enc.phase = .encIdle := by
  cases hp : s.enc.phase <;> simp [unsent, fieldsLeft, hp] at h ⊢

theorem payloadLeft_of_lenR_le {s : State} (h : s.enc.lenR.toNat ≤ s.enc.cursor.toNat) : payloadLeft s = [] := by
  simp [payloadLeft, Nat.sub_eq_zero_of_le h]

/-- A payload transfer takes the next byte off those left. -/
theorem payloadLeft_eq_cons {s : State} (h : s.enc.cursor.toNat < s.enc.lenR.toNat) (n : EncPhase) :
    payloadLeft s = plData s :: payloadLeft (emitPayload n s) := by
  have := s.enc.lenR.isLt
  have hcursor : (emitPayload n s).enc.cursor.toNat = s.enc.cursor.toNat + 1 := succ_toNat_of_lt (by omega)
  obtain ⟨k, hk⟩ := Nat.exists_eq_add_of_lt h
  have hleft : s.enc.lenR.toNat - s.enc.cursor.toNat = k + 1 := by omega
  have hleft' : s.enc.lenR.toNat - (s.enc.cursor.toNat + 1) = k := by omega
  rw [payloadLeft, hleft, List.range'_succ, List.map_cons, payloadLeft, hcursor, emitPayload_eq]
  exact congrArg (fun m => plData s :: (List.range' _ m).map (payloadByte s.payloadSrc)) hleft'.symm

/-- CHECKSUM is settled from the first byte on: what the accumulator takes is what the sum left over loses (R141). -/
theorem fieldsLeft_eq_cons {s : State} (h : s.enc.cursor.toNat < s.enc.lenR.toNat) (n : EncPhase) :
    fieldsLeft s = ⟨plData s, false⟩ :: fieldsLeft (emitPayload n s) := by
  have hacc : (emitPayload n s).enc.acc = s.enc.acc + plData s := by simp
  rw [fieldsLeft, payloadLeft_eq_cons h n, fieldsLeft, hacc, sum8_cons, BitVec.add_assoc]
  rfl

theorem fieldsLeft_of_lenR_le {s : State} (h : s.enc.lenR.toNat ≤ s.enc.cursor.toNat) :
    fieldsLeft s = [⟨s.enc.acc, false⟩, ⟨Config.END, true⟩] := by
  simp [fieldsLeft, payloadLeft_of_lenR_le h]

@[simp] theorem fieldsLeft_emit_setPhase (b : Byte) (p : EncPhase) (s : State) :
    fieldsLeft ((emit b s).setEnc (s.enc.setPhase p)) = fieldsLeft s := rfl

/-! ## A row of the encoder -/

/-- From `s` to `t` the encoder makes the first `n` of the transfers to come, or all where there are fewer. -/
structure Sends (n : Nat) (s t : State) : Prop where
  wire : t.wire = s.wire ++ (unsent s).take n
  left : unsent t = (unsent s).drop n
  err : t.enc.err = s.enc.err
  inv : EncoderInv t

theorem Sends.none {s : State} (h : EncoderInv s) : Sends 0 s s := ⟨(List.append_nil _).symm, rfl, rfl, h⟩

theorem Sends.trans {m n : Nat} {s t u : State} (h : Sends m s t) (h' : Sends n t u) : Sends (m + n) s u where
  wire := by rw [h'.wire, h.wire, h.left, List.take_add, List.append_assoc]
  left := by rw [h'.left, h.left, List.drop_drop]
  err := h'.err.trans h.err
  inv := h'.inv

theorem Sends.congr {n : Nat} {s t u : State} (h : Sends n s t) (htu : SameBlock .e t u) : Sends n s u := by
  have hleft := unsent_congr htu
  obtain ⟨henc, hsrc, hwire⟩ := htu
  exact ⟨hwire.trans h.wire, hleft.trans h.left, by rw [henc, h.err], h.inv.congr henc hsrc⟩

/-- Once as many steps were ready as there were transfers to come, all are made and the encoder is idle. -/
theorem Sends.all {n : Nat} {s t : State} (h : Sends n s t) (hn : (unsent s).length = n) :
    t.wire = s.wire ++ unsent s ∧ t.enc.phase = .encIdle := by
  refine ⟨by rw [h.wire, List.take_of_length_le hn.le], phase_eq_encIdle_of_unsent ?_⟩
  rw [h.left, List.drop_of_length_le hn.le]

/-- What is on offer is the first of the transfers to come. -/
theorem take_one_unsent {s : State} (h : EncoderInv s) : (unsent s).take 1 = offered s := by
  cases hp : s.enc.phase
  case encPayload =>
    have hcons := fieldsLeft_eq_cons (h.inside hp) .encPayload
    simp [unsent, offered, outByte, outLast, hp, hcons]
  all_goals simp [unsent, offered, outByte, outLast, hp]

/-- A ready step goes on to the next field: by phases, each emitting row leaves the transfers to come but the first. -/
theorem unsent_effect_of_ready {s : State} (h : EncoderInv s) {t : Bool} {n : EncLen} {j : Instr}
    (hj : phaseRow s.enc.phase false t true n (selCtx s) = .ok j) :
    unsent (effect j s) = (unsent s).drop 1 ∧ (effect j s).enc.err = s.enc.err := by
  cases hp : s.enc.phase <;> rw [hp] at hj
  case encIdle => cases hj; exact ⟨by simp [unsent, effect, hp], rfl⟩
  case encLength =>
    obtain ⟨hlen, ⟨⟩⟩ | ⟨-, ⟨⟩⟩ := ite_eq_iff.mp hj
    · have hlen' : s.enc.lenR.toNat ≤ s.enc.cursor.toNat := by simp [show s.enc.lenR = 0x00#8 from hlen]
      exact ⟨by simp [unsent, effect, hp, fieldsLeft_of_lenR_le hlen'], rfl⟩
    · exact ⟨by simp [unsent, effect, hp], rfl⟩
  case encPayload =>
    have hcons := fieldsLeft_eq_cons (h.inside hp)
    obtain ⟨-, ⟨⟩⟩ | ⟨-, hj⟩ := ite_eq_iff.mp hj
    · exact ⟨by simp only [unsent, hp, hcons .encPayload]; rfl, rfl⟩
    · obtain ⟨hlast, ⟨⟩⟩ | ⟨-, ⟨⟩⟩ := ite_eq_iff.mp hj
      have hlast' : s.enc.cursor.toNat + 1 = s.enc.lenR.toNat := of_decide_eq_true hlast
      have hcursor : (emitPayload .encChecksum s).enc.cursor.toNat = s.enc.cursor.toNat + 1 :=
        succ_toNat_of_lt (by omega)
      have hend : fieldsLeft (emitPayload .encChecksum s) = _ :=
        fieldsLeft_of_lenR_le (hlast'.symm.trans hcursor.symm).le
      exact ⟨by simp only [unsent, hp, hcons .encChecksum, hend]; rfl, rfl⟩
  case encStart | encChecksum | encEnd => cases hj; exact ⟨by simp [unsent, effect, hp], rfl⟩

/-- A step without `enc_start` transfers one byte if the receiver is ready, and otherwise none (R136, R137). -/
theorem sends_effect {s : State} (h : EncoderInv s) {t y : Bool} {n : EncLen} {j : Instr} (ht : tooLargeBit n = t)
    (hj : phaseRow s.enc.phase false t y n (selCtx s) = .ok j) : Sends y.toNat s (effect j s) := by
  have hwire := wire_effect_of_phaseRow hj
  have hinv := encoderInv_effect h (selected_of_phaseRow ht hj)
  cases y
  case true =>
    obtain ⟨hleft, herr⟩ := unsent_effect_of_ready h hj
    exact ⟨by rw [hwire, Bool.toNat_true, take_one_unsent h]; rfl, hleft, herr, hinv⟩
  case false =>
    have hsame : effect j s = s := by
      by_cases hp : s.enc.phase = .encIdle
      · rw [hp] at hj; cases hj; rfl
      · exact effect_of_phaseRow_not_ready hp hj
    rw [hsame]
    exact .none h

/-! ## Steps of the encoder alone -/

/-- A line of the encoder with `out_ready` alone: ENC.STEP or ENC.WAIT (R83). -/
abbrev readyLine (y : Bool) : Input := encLine { EncPins.quiet with outReady := y }

theorem step_readyLine {s : State} (h : EncoderInv s) (y : Bool) (rest : List Input) :
    ∃ t, step { s with inputs := readyLine y :: rest } = .next t ∧ Sends y.toNat s t ∧ t.dec = s.dec ∧
      t.inputs = rest := by
  have ht : tooLargeBit 0x0000#16 = false := rfl
  obtain ⟨j, hj⟩ := exists_phaseRow h.inside false false y 0x0000#16
  have hdec := (decode_phaseWord ht false y s.enc.phase (selCtx s)).trans hj
  have hf := format_of_decodeE hdec
  have hsame : SameBlock .e s { s with inputs := rest } := ⟨rfl, rfl, rfl⟩
  refine ⟨effect j { s with inputs := rest }, step_encLine s _ rest hdec
    (exec_of_selected (s := { s with inputs := rest }) (selected_of_phaseRow ht hj)),
    (sends_effect h ht hj).congr (sameBlock_effect_effect hf hsame), ?_, inputs_effect j _⟩
  exact sameBlock_effect (f := .d) (.inl rfl) (.inr (.inl hf)) (by simp [hf]) _

/-- Whatever the pace, each ready step makes one transfer. -/
theorem runSteps_readyLines (ready : List Bool) {s : State} (h : EncoderInv s) (rest : List Input) :
    ∃ t, runSteps ready.length { s with inputs := ready.map readyLine ++ rest } = .next t ∧
      Sends (ready.count true) s t ∧ t.dec = s.dec ∧ t.inputs = rest := by
  induction ready generalizing s with
  | nil => exact ⟨_, rfl, .congr (.none h) ⟨rfl, rfl, rfl⟩, rfl, rfl⟩
  | cons y ready ih =>
    obtain ⟨t, ht, hsends, hdec, hin⟩ := step_readyLine h y (ready.map readyLine ++ rest)
    obtain ⟨u, hu, hsends', hdec', hin'⟩ := ih hsends.inv
    have hcount : (y :: ready).count true = y.toNat + ready.count true := by cases y <;> simp [Nat.add_comm]
    rw [← hin] at hu
    exact ⟨u, (runSteps_succ _ ht).trans hu, hcount ▸ hsends.trans hsends', hdec'.trans hdec, hin'⟩

/-! ## The start of an ENCODE -/

theorem encoderInv_of_encIdle {s : State} (hp : s.enc.phase = .encIdle) (hsrc : Memory.wf Config.SRC_CAP s.payloadSrc) :
    EncoderInv s where
  before := by simp [hp]
  inside := by simp [hp]
  after := by simp [hp]
  errIdle := fun _ => hp
  accSum := fun hne => absurd hp hne
  source := hsrc

/-- ENC.START n in EncIdle runs the row that the length selects there (R134, R135). -/
theorem step_lineEncStart {s : State} (hidle : s.enc.phase = .encIdle) {n : EncLen} {t : Bool} (ht : tooLargeBit n = t)
    {j : Instr} (hj : phaseRow .encIdle true t false n (selCtx s) = .ok j) (rest : List Input) :
    step { s with inputs := lineEncStart n :: rest } = .next (effect j { s with inputs := rest }) := by
  rw [← hidle] at hj
  have hsel : selected j { s with inputs := rest } = true := selected_of_phaseRow (s := { s with inputs := rest }) ht hj
  refine step_encLine s (EncPins.startOf n) rest ?_ (exec_of_selected hsel)
  rw [← hj, ← decode_phaseWord ht, ← ht]
  rfl

/-- The transfers of ENCODE(p): `out_last` with the last byte only (R146). -/
def frameTransfers (p : List Byte) : List Transfer :=
  (frameBytes p).dropLast.map (⟨·, false⟩) ++ [⟨Config.END, true⟩]

theorem frameTransfers_eq (p : List Byte) : frameTransfers p =
    ⟨Config.START, false⟩ :: ⟨BitVec.ofNat 8 p.length, false⟩ ::
      (p.map (⟨·, false⟩) ++ [⟨cksum8Of p, false⟩, ⟨Config.END, true⟩]) := by
  have hdrop : (frameBytes p).dropLast = [Config.START, BitVec.ofNat 8 p.length] ++ p ++ [cksum8Of p] :=
    List.dropLast_append_of_ne_nil (by simp)
  simp [frameTransfers, hdrop]

theorem length_frameTransfers (p : List Byte) : (frameTransfers p).length = p.length + 4 := by
  simp [frameTransfers_eq]

theorem map_byte_frameTransfers (p : List Byte) : (frameTransfers p).map Transfer.byte = frameBytes p := by
  simp [frameTransfers_eq, frameBytes, Function.comp_def]

/-- The source shows the presented payload from its first byte to its last (R56). -/
theorem map_payloadByte_sourceOf {p : List Byte} (hp : p.length ≤ 255) :
    (List.range' 0 p.length).map (payloadByte (sourceOf p)) = p := by
  refine List.ext_getElem (by simp) fun i _ hi => ?_
  simpa using payloadByte_sourceOf p i hi (Nat.lt_of_lt_of_le hi hp)

/-- The state after ENC.START_OK for the payload `p` (R134). -/
def started (p : List Byte) (s : State) : State := effect (.encStartOk false (BitVec.ofNat 8 p.length)) s

section
variable {p : List Byte} (hp : p.length ≤ 255) {s : State}
include hp

theorem unsent_started (hsrc : s.payloadSrc = sourceOf p) : unsent (started p s) = frameTransfers p := by
  have hlen : (BitVec.ofNat 8 p.length).toNat = p.length := by rw [BitVec.toNat_ofNat]; omega
  have hleft : payloadLeft (started p s) = p := by
    simpa [payloadLeft, started, effect, hsrc, hlen] using map_payloadByte_sourceOf hp
  have hsum : fieldsLeft (started p s) = p.map (⟨·, false⟩) ++ [⟨cksum8Of p, false⟩, ⟨Config.END, true⟩] := by
    rw [fieldsLeft, hleft]
    simp [started, effect, cksum8Of]
  rw [frameTransfers_eq, ← hsum]
  rfl

theorem step_lineEncStart_ok (hidle : s.enc.phase = .encIdle) (rest : List Input) :
    step { s with inputs := lineEncStart (BitVec.ofNat 16 p.length) :: rest } =
      .next { started p s with inputs := rest } := by
  have hlen : (BitVec.ofNat 16 p.length).toNat = p.length := by rw [BitVec.toNat_ofNat]; omega
  have ht : tooLargeBit (BitVec.ofNat 16 p.length) = false := by simp [tooLargeBit, hlen, hp]
  have hlow : (BitVec.ofNat 16 p.length).extractLsb' 0 8 = BitVec.ofNat 8 p.length := by
    apply BitVec.eq_of_toNat_eq
    simp [hlen]
  rw [started, ← hlow]
  exact step_lineEncStart hidle ht rfl rest

end

theorem encoderInv_started {p : List Byte} {s : State} (hidle : s.enc.phase = .encIdle)
    (hsrc : s.payloadSrc = sourceOf p) : EncoderInv (started p s) :=
  (encoderInv_of_encIdle hidle (hsrc ▸ sourceOf_wf p)).start _

/-! ## The program ENCODE -/

/-- The state after the payload `p` is presented (R56). -/
def presented (p : List Byte) (s : State) : State := { s with payloadSrc := sourceOf p }

theorem step_presented {p : List Byte} {s : State} (hidle : s.enc.phase = .encIdle) (rest : List Input) :
    step { s with inputs := .present p :: rest } = .next { presented p s with inputs := rest } :=
  step_present s p rest hidle

/-- ENCODE of a payload that fits, at any pace with as many ready steps as the frame has bytes: the frame goes out. -/
theorem runSteps_encode {p : List Byte} (hp : p.length ≤ 255) {s : State} (hidle : s.enc.phase = .encIdle)
    {ready : List Bool} (hcount : ready.count true = p.length + 4) (rest : List Input) :
    ∃ t, runSteps (ready.length + 2) { s with
        inputs := .present p :: lineEncStart (BitVec.ofNat 16 p.length) :: (ready.map readyLine ++ rest) } = .next t ∧
      t.wire = s.wire ++ frameTransfers p ∧ t.enc.phase = .encIdle ∧ t.enc.err = false ∧ t.inputs = rest := by
  have hleft : unsent (started p (presented p s)) = frameTransfers p := unsent_started hp rfl
  obtain ⟨t, ht, hsends, -, hin⟩ :=
    runSteps_readyLines ready (s := started p (presented p s)) (encoderInv_started hidle rfl) rest
  obtain ⟨hwire, hdone⟩ := hsends.all (by rw [hleft, length_frameTransfers, hcount])
  rw [hleft] at hwire
  refine ⟨t, ?_, hwire, hdone, hsends.err, hin⟩
  rw [runSteps_succ _ (step_presented hidle _),
    runSteps_succ _ (step_lineEncStart_ok (s := presented p s) hp hidle _), ht]

theorem step_lineEncStart_tooLarge {s : State} (hidle : s.enc.phase = .encIdle) {n : EncLen} (hn : 255 < n.toNat)
    (rest : List Input) :
    step { s with inputs := lineEncStart n :: rest } =
      .next { raiseError .payloadTooLarge s with inputs := rest } :=
  step_lineEncStart hidle (decide_eq_true hn) rfl rest

/-- ENCODE of a payload that does not fit: the start is refused, and nothing is to come after it (R135). -/
theorem runSteps_encodeProgram_tooLarge {p : List Byte} (hp : 255 < p.length) {s : State}
    (hidle : s.enc.phase = .encIdle) (rest : List Input) :
    ∃ t, runSteps (p.length + 6) { s with inputs := encodeProgram p ++ rest } = .next t ∧
      t.wire = s.wire ∧ t.enc.phase = .encIdle ∧ t.enc.err = true ∧ t.dec = s.dec ∧ t.inputs = rest := by
  have hn : 255 < (startLength p).toNat := by rw [startLength_toNat]; omega
  have hidle' : (raiseError .payloadTooLarge (presented p s)).enc.phase = .encIdle := hidle
  have hleft : unsent (raiseError .payloadTooLarge (presented p s)) = [] := by simp only [unsent, hidle']
  obtain ⟨t, ht, hsends, hdec, hin⟩ := runSteps_readyLines (List.replicate (p.length + 4) true)
    (encoderInv_of_encIdle hidle' (sourceOf_wf p)) rest
  rw [List.length_replicate, List.map_replicate] at ht
  have hwire := hsends.wire
  rw [hleft, List.take_nil, List.append_nil] at hwire
  refine ⟨t, ?_, hwire, phase_eq_encIdle_of_unsent ?_, hsends.err, hdec, hin⟩
  · rw [encodeProgram, List.cons_append, List.cons_append, runSteps_succ _ (step_presented hidle _),
      runSteps_succ _ (step_lineEncStart_tooLarge (s := presented p s) hidle hn _)]
    exact ht
  · rw [hsends.left, hleft, List.drop_nil]

/-- Settles O57: after the start the whole frame is to come, and each ready step transfers its next byte. -/
theorem serializerImplementsEncode : Obligations.SerializerImplementsEncode := by
  refine ⟨fun p f ready s rest h hidle hcount => ?_, fun p s rest hp hidle =>
    runSteps_encodeProgram_tooLarge hp hidle rest⟩
  obtain rfl := eq_frameBytes_of_encodeFrame h
  exact runSteps_encode (by simpa [encodeFrame] using h) hidle hcount rest

/-! ## The program LOOPBACK -/

theorem feedInv_feedList {d : Decoder} (h : FeedInv d) (l : List Byte) : FeedInv (feedList l d) := by
  induction l generalizing d with
  | nil => exact h
  | cons b l ih => exact ih (h.feed b)

/-- In LOOPBACK the decoder's pins feed the byte on offer, if there is one (R84). -/
theorem wiredPins_loopback_ready (s : State) : wiredPins .loopback DecPins.quiet EncPins.ready s =
    ⟨false, (outByte s).isSome, (outByte s).getD 0x00#8⟩ := by
  simp [wiredPins, transfers, outValid_eq_isSome_outByte, EncPins.ready, EncPins.quiet, DecPins.quiet]

/-- The decoder's row in a LOOPBACK step takes what is on offer. -/
theorem dec_effect_of_loopback {s : State} {i : Instr} (h : decode (.d (dispatchWordD
      (wiredPins .loopback DecPins.quiet EncPins.ready s) s.dec.state)) (selCtx s) = .ok i) :
    (effect i s).dec = feedList ((offered s).map Transfer.byte) s.dec := by
  rw [wiredPins_loopback_ready] at h
  cases hb : outByte s <;> rw [hb] at h
  case none =>
    rw [Option.isSome_none, dispatchWordD_idle, decode_idleWord] at h
    cases h
    simp [offered, hb, effect]
  case some b =>
    rw [Option.isSome_some, Option.getD_some, dispatchWordD_feed, decode_feedWord] at h
    rw [effect_of_feedRow h]
    simp [offered, hb]

theorem step_edge_completes {s : State} (hd : Inv3 s.dec) (he : EncoderInv s) (w : Wiring) (d : DecPins) (e : EncPins)
    (k : CkPins) (rest : List Input) : Completes (step { s with inputs := .edge w d e k :: rest }) := by
  obtain ⟨i, hi, hsi⟩ := exists_decoderRow hd (wiredPins w d e s)
  obtain ⟨j, hj, hsj⟩ := exists_encoderRow he e
  obtain ⟨l, hl, hsl⟩ := exists_ckRow s k
  rw [step_edge s w d e k rest (edgeOps_eq_ok.mpr ⟨i, j, l, hi, hj, hl, rfl⟩)]
  exact ⟨_, runOps_blocks (s := { s with inputs := rest }) (format_of_decodeD hi) (format_of_decodeE hj)
    (format_of_decodeK hl) hsi hsj hsl⟩

/-- A LOOPBACK step feeds the byte it transfers. -/
theorem step_loopStep {s : State} (hd : FeedInv s.dec) (he : EncoderInv s) (rest : List Input) :
    ∃ t, step { s with inputs := loopStep :: rest } = .next t ∧ Sends 1 s t ∧
      t.dec = feedList (((unsent s).take 1).map Transfer.byte) s.dec ∧ t.inputs = rest := by
  obtain ⟨t, ht⟩ := step_edge_completes hd.inv3 he .loopback DecPins.quiet EncPins.ready CkPins.quiet rest
  obtain ⟨i, j, hi, hj, hdec, hblock, hin⟩ := step_edge_blocks ht
  have htl : tooLargeBit 0x0000#16 = false := rfl
  have hrow : phaseRow s.enc.phase false false true 0x0000#16 (selCtx s) = .ok j :=
    (decode_phaseWord htl false true s.enc.phase (selCtx s)).symm.trans hj
  refine ⟨t, ht, (sends_effect he htl hrow).congr hblock, ?_, hin⟩
  rw [hdec, dec_effect_of_loopback hi, take_one_unsent he]

theorem runSteps_loopSteps (n : Nat) {s : State} (hd : FeedInv s.dec) (he : EncoderInv s) (rest : List Input) :
    ∃ t, runSteps n { s with inputs := List.replicate n loopStep ++ rest } = .next t ∧ Sends n s t ∧
      t.dec = feedList (((unsent s).take n).map Transfer.byte) s.dec ∧ t.inputs = rest := by
  induction n generalizing s with
  | zero => exact ⟨_, rfl, .congr (.none he) ⟨rfl, rfl, rfl⟩, rfl, rfl⟩
  | succ n ih =>
    obtain ⟨t, ht, hsends, hdec, hin⟩ := step_loopStep hd he (List.replicate n loopStep ++ rest)
    obtain ⟨u, hu, hsends', hdec', hin'⟩ := ih (s := t) (hdec ▸ feedInv_feedList hd _) hsends.inv
    rw [← hin] at hu
    have hall : Sends (n + 1) s u := Nat.add_comm 1 n ▸ hsends.trans hsends'
    refine ⟨u, (runSteps_succ n ht).trans hu, hall, ?_, hin'⟩
    rw [hdec', hdec, hsends.left, Nat.add_comm n 1, List.take_add, List.map_append, feedList_append]

/-- A fresh decoder fed a whole frame delivers its payload: O53 says it of the program DECODE. -/
theorem feedList_frameBytes {p : List Byte} (hp : p.length ≤ 255) (d : Decoder) :
    (feedList (frameBytes p) (fresh d)).state = .done ∧ deliveredPayload (feedList (frameBytes p) (fresh d)) = p := by
  obtain ⟨t, ht, hreads, hdone, -⟩ := decodingAnEncodedPayloadCompletes p (frameBytes p) (State.reset.setDec d) []
    (encodeFrame_of_length_le hp)
  rw [runSteps_decodeProgram rfl] at ht
  cases ht
  obtain ⟨-, -, hpayload⟩ : _ ∧ _ ∧ deliveredPayload (feedList (frameBytes p) (fresh d)) = p := by
    simpa [resultOf] using hreads
  exact ⟨hdone, hpayload⟩

theorem startLength_of_length_le {p : List Byte} (hp : p.length ≤ 255) : startLength p = BitVec.ofNat 16 p.length := by
  rw [startLength, Nat.min_eq_left (by omega)]

/-- LOOPBACK: what the decoder is fed after its reset is what is still to come after the start, which is the frame. -/
theorem runSteps_loopbackProgram {p : List Byte} (hp : p.length ≤ 255) {s : State} (hidle : s.enc.phase = .encIdle)
    (rest : List Input) :
    ∃ t, runSteps (p.length + 7) { s with inputs := loopbackProgram p ++ rest } = .next t ∧
      t.dec = feedList (frameBytes p) (fresh s.dec) ∧ t.enc.phase = .encIdle ∧ t.inputs = rest := by
  have hleft : unsent (started p (resetDecoder (presented p s))) = frameTransfers p := unsent_started hp rfl
  have hlen := length_frameTransfers p
  obtain ⟨t, ht, hsends, hdec, hin⟩ := runSteps_loopSteps (p.length + 4)
    (s := started p (resetDecoder (presented p s))) (feedInv_fresh s.dec) (encoderInv_started hidle rfl) rest
  obtain ⟨-, hdone⟩ := hsends.all (by rw [hleft, hlen])
  rw [hleft, List.take_of_length_le hlen.le, map_byte_frameTransfers] at hdec
  refine ⟨t, ?_, hdec, hdone, hin⟩
  rw [loopbackProgram, startLength_of_length_le hp, List.cons_append, List.cons_append, List.cons_append,
    runSteps_succ _ (step_presented hidle _), runSteps_succ _ (step_lineReset (presented p s) _)]
  exact (runSteps_succ _ (step_lineEncStart_ok (s := resetDecoder (presented p s)) hp hidle _)).trans ht

/-- Settles O58. -/
theorem loopbackDeliversThePayload : Obligations.LoopbackDeliversThePayload := by
  intro p s rest hp hidle
  obtain ⟨t, ht, hdec, hdone, hin⟩ := runSteps_loopbackProgram hp hidle rest
  obtain ⟨hstate, hpayload⟩ := feedList_frameBytes hp s.dec
  rw [← hdec] at hstate hpayload
  exact ⟨t, ht, hstate, hpayload, hdone, hin⟩

end Sys2Proof.Safety
end

section
/-! The reset inputs (60_exceptions.md R159), and who raises the errors and who leaves the terminal states (R154, R161). -/

namespace Sys2Proof.Machine

/-! ## Edges whose rows have the same meanings -/

theorem runOps_congr {is js : List Instr} (h : is.map exec = js.map exec) : runOps is = runOps js := by
  induction is generalizing js with
  | nil => rw [List.map_eq_nil_iff.mp h.symm]
  | cons i is ih =>
    obtain ⟨j, js, rfl, hj, hjs⟩ := List.map_eq_cons_iff.mp h.symm
    funext s
    simp only [runOps, hj, ih hjs.symm]

/-- The meanings of an edge's rows, one decoding each. -/
theorem map_exec_edgeOps (w : Wiring) (d : DecPins) (e : EncPins) (k : CkPins) (s : State) :
    List.map exec <$> edgeOps w d e k s = (do
      let f ← exec <$> decode (.d (dispatchWordD (wiredPins w d e s) s.dec.state)) (selCtx s)
      let g ← exec <$> decode (.e (dispatchWordE e s.enc.phase) e.len) (selCtx s)
      let h ← exec <$> decode (.k (dispatchWordK k)) (selCtx s)
      return [f, g, h]) := by
  simp only [edgeOps, map_bind, bind_map_left, map_pure, List.map_cons, List.map_nil]

/-- Edges whose rows have the same meanings do the same, refusals included. -/
theorem step_edge_congr {s : State} {w : Wiring} {d d' : DecPins} {e e' : EncPins} {k k' : CkPins}
    (hd : exec <$> decode (.d (dispatchWordD (wiredPins w d e s) s.dec.state)) (selCtx s) =
      exec <$> decode (.d (dispatchWordD (wiredPins w d' e' s) s.dec.state)) (selCtx s))
    (he : exec <$> decode (.e (dispatchWordE e s.enc.phase) e.len) (selCtx s) =
      exec <$> decode (.e (dispatchWordE e' s.enc.phase) e'.len) (selCtx s))
    (hk : exec <$> decode (.k (dispatchWordK k)) (selCtx s) = exec <$> decode (.k (dispatchWordK k')) (selCtx s))
    (rest : List Input) :
    step { s with inputs := .edge w d e k :: rest } = step { s with inputs := .edge w d' e' k' :: rest } := by
  have hops : List.map exec <$> edgeOps w d e k s = List.map exec <$> edgeOps w d' e' k' s := by
    rw [map_exec_edgeOps, map_exec_edgeOps, hd, he, hk]
  cases h : edgeOps w d e k s <;> cases h' : edgeOps w d' e' k' s <;> rw [h, h'] at hops
  case error.error x y =>
    cases hops
    rw [step_edge_error s w d e k rest h, step_edge_error s w d' e' k' rest h']
  case ok.ok is js =>
    rw [step_edge s w d e k rest h, step_edge s w d' e' k' rest h', runOps_congr (Except.ok.inj hops)]
  case error.ok | ok.error => cases hops

/-- What the decoder is fed while the encoder is reset does not depend on the encoder's other inputs (R132, D30). -/
theorem wiredPins_encReset (w : Wiring) (d : DecPins) (s : State) (st st' y : Bool) (n n' : EncLen) :
    wiredPins w d ⟨true, st, n, y⟩ s = wiredPins w d ⟨true, st', n', y⟩ s := by
  cases w <;> rfl

/-- Settles O42: with its reset input a block runs its reset row, whose meaning ignores the other inputs. -/
theorem resetInputsWin : Obligations.ResetInputsWin := by
  refine ⟨fun s v b e k rest => step_edge_congr ?_ rfl rfl rest,
    fun s w d st y n k rest => step_edge_congr ?_ ?_ rfl rest,
    fun s w d e en b rest => step_edge_congr rfl rfl ?_ rest⟩
  · simp only [wiredPins, DecPins.reset, dispatchWordD_reset, decode_resetWord]
    rfl
  · rw [wiredPins_encReset]
  · simp only [dispatchWordE_reset, decode_encResetWord rfl]
    rfl
  · simp only [decode_dispatchWordK]
    rfl

/-! ## The errors -/

/-- The rows that lead into Failed, with the cause each records. -/
theorem raising_row_of_failed {i : Instr} {s t : State} (h : exec i s = .next t) (hs : s.dec.state ≠ .failed)
    (ht : t.dec.state = .failed) :
    (t.dec.failCause = false ∧ ((∃ b, i = .feedStartBad b) ∨ ∃ b, i = .feedEndBad b)) ∨
      (t.dec.failCause = true ∧ ∃ b, i = .feedCksumBad b) := by
  obtain ⟨-, rfl⟩ := exec_next_iff.mp h
  cases i
  case feedStartBad b => exact .inl ⟨rfl, .inl ⟨b, rfl⟩⟩
  case feedEndBad b => exact .inl ⟨rfl, .inr ⟨b, rfl⟩⟩
  case feedCksumBad b => exact .inr ⟨rfl, b, rfl⟩
  case reset | feedStartOk | feedLenZero | feedLenNonzero | feedPayloadMore | feedPayloadLast | feedCksumOk |
      feedEndOk => cases ht
  all_goals exact absurd ht hs

/-- The row that sets `enc_err`. -/
theorem raising_row_of_err {i : Instr} {s t : State} (h : exec i s = .next t) (hs : s.enc.err = false)
    (ht : t.enc.err = true) : ∃ y n, i = .encStartTooLarge y n := by
  obtain ⟨-, rfl⟩ := exec_next_iff.mp h
  cases i
  case encStartTooLarge y n => exact ⟨y, n, rfl⟩
  case encReset | encStartOk => cases ht
  all_goals cases hs.symm.trans ht

/-- ENC.START_TOOLARGE sets the flag in EncIdle and stays there (R135). -/
theorem encStartTooLarge_raises {y : Bool} {n : EncLen} {s t : State} (h : exec (.encStartTooLarge y n) s = .next t) :
    t.enc.phase = .encIdle ∧ encErr t = true := by
  obtain ⟨hsel, rfl⟩ := (exec_encStartTooLarge_eq_next y n).mp h
  obtain ⟨hidle, -⟩ : s.enc.phase = .encIdle ∧ tooLargeBit n = true := by simpa [selected] using hsel
  exact ⟨hidle, rfl⟩

/-- Settles O47: the state and cause each error leaves give the verdict, and the rows that can raise it are found one by one. -/
theorem onlyTheNamedOperationsRaise : Obligations.OnlyTheNamedOperationsRaise := by
  refine ⟨?_, fun b s t h => ?_, fun y n s t => encStartTooLarge_raises, fun i s t h hs ht => ?_, fun i s t h hs ht => ?_⟩
  · rintro b s t (h | h) <;> obtain ⟨-, rfl⟩ := exec_next_iff.mp h <;> exact ⟨rfl, rfl, rfl⟩
  · obtain ⟨-, rfl⟩ := exec_next_iff.mp h
    exact ⟨rfl, rfl, rfl⟩
  · rw [verdict_of_failed ht]
    obtain ⟨hc, hi⟩ | ⟨hc, hi⟩ := raising_row_of_failed h hs ht
    · exact .inl ⟨hc, by rw [hc]; rfl, hi⟩
    · exact .inr ⟨hc, by rw [hc]; rfl, hi⟩
  · obtain ⟨y, n, rfl⟩ := raising_row_of_err h hs ht
    exact ⟨(encStartTooLarge_raises h).1, y, n, rfl⟩

/-- Settles O48: no other row that writes the decoder is selected in a terminal state. -/
theorem onlyResetLeavesATerminalState : Obligations.OnlyResetLeavesATerminalState := by
  refine fun i s t hs h => ⟨fun hreset => ?_, ?_⟩
  · obtain ⟨hsel, rfl⟩ := exec_next_iff.mp h
    exact dec_effect_of_terminal hs hreset hsel
  · rintro ⟨v, c, b, rfl⟩
    obtain rfl := (exec_reset_eq_next v c b).mp h
    exact ⟨rfl, rfl, rfl, rfl, rfl⟩

end Sys2Proof.Machine
end

section
/-! A busy encoder and its start inputs (42_encoder.md R191): the rows of the phases other than EncIdle carry `enc_start` and
`too_large` as don't-care bits, which their meanings ignore. -/

namespace Sys2Proof.Machine

theorem encBusy_iff {s : State} : encBusy s = true ↔ s.enc.phase ≠ .encIdle := bne_iff_ne

/-- Outside EncIdle the meaning of a phase's row depends on `out_ready` and the registers only. -/
theorem map_exec_phaseRow {ph : EncPhase} (hp : ph ≠ .encIdle) (st st' t t' y : Bool) (n n' : EncLen) (c : SelCtx) :
    exec <$> phaseRow ph st t y n c = exec <$> phaseRow ph st' t' y n' c := by
  cases y
  case false => rw [phaseRow_not_ready st t hp, phaseRow_not_ready st' t' hp]; rfl
  case true =>
    cases ph
    case encIdle => exact absurd rfl hp
    case encStart | encChecksum | encEnd => rfl
    case encLength => by_cases hlen : c.encLenR = 0x00#8 <;> simp only [phaseRow, hlen] <;> rfl
    case encPayload =>
      cases hmore : c.encMore <;> cases hlast : c.encLast <;> simp only [phaseRow, hmore, hlast] <;> rfl

/-- Outside EncIdle no phase's row writes `enc_err`. -/
theorem err_effect_of_phaseRow {s : State} (hp : s.enc.phase ≠ .encIdle) {st t y : Bool} {n : EncLen} {j : Instr}
    (h : phaseRow s.enc.phase st t y n (selCtx s) = .ok j) : (effect j s).enc.err = s.enc.err := by
  cases y
  case false => rw [effect_of_phaseRow_not_ready hp h]
  case true =>
    cases hph : s.enc.phase <;> rw [hph] at h
    case encIdle => exact absurd hph hp
    case encStart | encChecksum | encEnd => cases h; rfl
    case encLength => obtain ⟨-, ⟨⟩⟩ | ⟨-, ⟨⟩⟩ := ite_eq_iff.mp h <;> rfl
    case encPayload =>
      obtain ⟨-, ⟨⟩⟩ | ⟨-, h⟩ := ite_eq_iff.mp h
      · rfl
      · obtain ⟨-, ⟨⟩⟩ | ⟨-, ⟨⟩⟩ := ite_eq_iff.mp h
        rfl

/-- What the decoder is fed in LOOPBACK does not depend on the encoder's start inputs (R137, D30). -/
theorem wiredPins_encStart (w : Wiring) (d : DecPins) (s : State) (r st st' y : Bool) (n n' : EncLen) :
    wiredPins w d ⟨r, st, n, y⟩ s = wiredPins w d ⟨r, st', n', y⟩ s := by
  cases w <;> rfl

/-- Settles O29: a busy encoder's row has the same meaning without the start, and none of these rows writes the flag. -/
theorem startIsIgnoredWhileBusy : Obligations.StartIsIgnoredWhileBusy := by
  intro s w d y n k rest hbusy
  have hp : s.enc.phase ≠ .encIdle := encBusy_iff.mp hbusy
  refine ⟨step_edge_congr ?_ ?_ rfl rest, fun t ht => ?_⟩
  · rw [wiredPins_encStart]
  · simp only [dispatchWordE_phase, decode_phaseWord rfl]
    exact map_exec_phaseRow hp ..
  · obtain ⟨-, j, -, hj, -, ⟨henc, -, -⟩, -⟩ := step_edge_blocks ht
    rw [dispatchWordE_phase, decode_phaseWord rfl] at hj
    rw [henc, err_effect_of_phaseRow hp hj]

end Sys2Proof.Machine
end
